-- ==== Sys2Proof/Word.lean ====
section
/-! DEFINITION. The units of data: 32-bit words, and the file of 25 of them. -/

namespace Sys2Proof

/-- A 32-bit unsigned word, bit 0 the least significant (R8). Arithmetic on it wraps modulo 2^32 (R10). -/
abbrev Word := BitVec 32

/-- A byte. The block has none (R43); only a host that serialises a snapshot uses it. -/
abbrev Byte := BitVec 8

/-- The word file `W[0..24]`: exactly 25 words, never resized, so no index outside it can be written down (R20). -/
abbrev WordFile := Vector Word 25

/-- The word file with every word zero: its reset content (R32). -/
def WordFile.zero : WordFile := Vector.replicate 25 0

end Sys2Proof
end

