-- ==== Sys2Proof/Machine/Float.lean ====
section
/-! DEFINITION. The exact conversion of NEXTF (R115): no rounding, no flags, no mode. -/

namespace Sys2Proof.Machine

/-- F64(y): the binary64 bit pattern of `y * 2^-32`, sign bit 0, exponent field `991 + p`, 52 fraction bits, where `p`
is the index of the most significant 1 bit of `y` (R115). -/
def f64 (y : Word) : BitVec 64 :=
  if y = 0 then
    0
  else
    let p := y.toNat.log2
    let exponent : BitVec 11 := BitVec.ofNat 11 (991 + p)
    let fraction : BitVec 52 := BitVec.ofNat 52 ((y.toNat - 2 ^ p) * 2 ^ (52 - p))
    (0 : BitVec 1) ++ exponent ++ fraction

/-- The two halves of a 64-bit pattern as data words, the low half first (R74, R114). -/
def halves (f : BitVec 64) : List Word := [f.extractLsb' 0 32, f.extractLsb' 32 32]

end Sys2Proof.Machine
end

