-- ==== Sys2Proof/Machine/State.lean ====
section
/-! DEFINITION. The machine's state as plain data, its reset value, and the reasons a step can stop.

The block's own state is `w`, `cur` and `init`, 833 bits and nothing else (R27). `input` and `out` are the two streams
of the transaction-level interface (R40): the host's step has no other input or output (log entry 1). -/

namespace Sys2Proof.Machine

/-- One item the host presents: a word of the command stream (R60), or the reset event (R170), which is no command
and arrives between words (log entry 3). -/
inductive HostEvent where
  | word (w : Word)
  | reset
deriving DecidableEq, Repr

/-- The three faults of the hardware (R140). A fault is a response of the block and not a stop of the machine: the
block goes on with the next command (R141, R148). -/
inductive Trap where
  /-- raised by NEXT, NEXT31 and NEXTF with `INIT = 0` (R141) -/
  | uninitializedGenerator
  /-- raised by an illegal header word (R142) -/
  | illegalCommand
  /-- raised by NEXT, NEXT31 and NEXTF with `INIT = 1` and `CUR > 24` (R143) -/
  | cursorOutOfRange
deriving DecidableEq, Repr

/-- One response (R72): data words follow only the status OK, so a faulting response has none by its type. -/
inductive Response where
  | ok (data : List Word)
  | fault (trap : Trap)
deriving DecidableEq, Repr

/-- The state of the machine. -/
structure State where
  /-- the word file `W[0..24]` (R20) -/
  w : WordFile
  /-- the cursor `CUR` (R23) -/
  cur : Word
  /-- the initialized flag `INIT` (R25) -/
  init : Bool
  /-- the command stream not yet consumed, with the host's reset events between its words (R40, R60, R170) -/
  input : List HostEvent
  /-- the response stream, oldest first (R40, R72) -/
  out : List Response
deriving DecidableEq, Repr

/-- The reasons for which a step could stop with a fault: none. Every fault this spec gives the hardware is a response
after which the block goes on (R147, R148), so it is a next state (log entry 6). No definition raises one; safe. -/
inductive Fault where
deriving DecidableEq, Repr

/-- The reasons for which a step could be refused. -/
inductive Refusal where
  /-- Raised only by an arm of `exec` whose instruction has no meaning yet; there is no such arm. Safe: nothing can be
  proved of an instruction that is refused. -/
  | notModelled (mnemonic : String)
deriving DecidableEq, Repr

/-- The machine right after the reset of power-up: `W` all zero, `CUR = 0`, `INIT = 0` (R32, R171). That both streams
are empty is a DESIGN CHOICE (log entry 4). -/
def State.reset : State :=
  { w := WordFile.zero, cur := 0, init := false, input := [], out := [] }

end Sys2Proof.Machine
end

