-- ==== Sys2Proof/Machine/Ops.lean ====
section
/-! DEFINITION. The named operations on the state: one update per field, ending a command with a response, taking a
fault, the reset event, and waiting for a command. -/

namespace Sys2Proof.Machine

/-- `W <- v`, the whole file. -/
def State.setW (s : State) (v : WordFile) : State := { s with w := v }

/-- `CUR <- v` (R9). -/
def State.setCur (s : State) (v : Word) : State := { s with cur := v }

/-- `INIT <- b` (R9). -/
def State.setInit (s : State) (b : Bool) : State := { s with init := b }

/-- The command stream from here on. -/
def State.setInput (s : State) (es : List HostEvent) : State := { s with input := es }

/-- One response put at the end of the response stream (R48, R72). -/
def State.emit (s : State) (r : Response) : State := { s with out := s.out ++ [r] }

/-- `respond(OK, d0, d1, ...)`: end the command normally with the listed data words (R9). -/
def respond (s : State) (data : List Word) : Host.Outcome State Fault Refusal :=
  .next (s.emit (.ok data))

/-- `raise <Fault>`: TAKING A FAULT, the one operation of R9, R140 and R147. Nothing is saved, `W`, `CUR` and `INIT`
keep their values, no mode changes and no control transfers: the whole effect is the response, the status alone. There
is no return from it, because nothing is to be restored: the block goes on with the next command (R148). -/
def raise (t : Trap) (s : State) : Host.Outcome State Fault Refusal :=
  .next (s.emit (.fault t))

/-- The execution of an illegal header: IllegalCommand in either lifecycle state, state unchanged (R69, R142). -/
def execIllegal (_header : Word) (s : State) : Host.Outcome State Fault Refusal :=
  raise .illegalCommand s

/-- The reset event: the state becomes the reset state of R32 and no response is produced (R170, R171). The rest of the
command stream and the responses already produced stay where they are (log entry 3). -/
def takeReset (s : State) : Host.Outcome State Fault Refusal :=
  .next { s with w := State.reset.w, cur := State.reset.cur, init := State.reset.init }

/-- No whole command is there yet: the state is unchanged and no response is produced (R71; log entry 2). -/
def awaitWords (s : State) : Host.Outcome State Fault Refusal :=
  .next s

/-- The status code of a fault, field `status` of the status word (R73). -/
def trapStatus : Trap → Word
  | .uninitializedGenerator => 0x00000001
  | .illegalCommand => 0x00000002
  | .cursorOutOfRange => 0x00000003

/-- The words of a response on the response stream: the status word, and after OK the data words (R72, R73). -/
def responseWords : Response → List Word
  | .ok data => 0x00000000 :: data
  | .fault t => [trapStatus t]

/-- The response stream as the host reads it, word by word (R40, R72). -/
def responseStream (s : State) : List Word := s.out.flatMap responseWords

end Sys2Proof.Machine
end

