-- ==== Sys2Proof/Machine/Params.lean ====
section
/-! DEFINITION. The fixed algorithm constants of R6. None can be configured. -/

namespace Sys2Proof.Machine

/-- `A`, the twist constant, `MAG[1]` (R6, R100). -/
def twistA : Word := 0x8ebfd028

/-- `S`, the first tempering left shift (R6, R110). -/
def temperS : Nat := 7

/-- `B`, the first tempering mask (R6, R110). -/
def temperB : Word := 0x2b5b2500

/-- `T`, the second tempering left shift (R6, R110). -/
def temperT : Nat := 15

/-- `C`, the second tempering mask (R6, R110). -/
def temperC : Word := 0xdb8b0000

/-- `LCG_MUL`, the seed-expansion multiplier (R6, R90). -/
def lcgMul : Word := 1313

/-- `LCG_INC`, the seed-expansion increment (R6, R90). -/
def lcgInc : Word := 88897

/-- `CUR_SEEDED`, the cursor SEED writes: the next draw twists first (R6, R91). -/
def curSeeded : Word := 24

/-- `INT31_MASK`, the mask of NEXT31 (R6, R113). -/
def int31Mask : Word := 0x7fffffff

end Sys2Proof.Machine
end

