-- ==== Sys2Proof/Machine/Twist.lean ====
section
/-! DEFINITION. The twist permutation unit (spec file 41). TWIST has no opcode: a draw runs it (R67, R103). -/

namespace Sys2Proof.Machine

/-- `MAG[b]`: `MAG[0] = 0`, `MAG[1] = A` (R100). -/
def mag (b : Bool) : Word := if b then twistA else 0

/-- `TW(f, x) = f ^ (x >> 1) ^ MAG[x & 1]`: bit 0 of `x` before the shift selects the constant (R100). -/
def tw (f x : Word) : Word := f ^^^ (x >>> 1) ^^^ mag (x.getLsbD 0)

/-- `W[i] <- TW(W[i + 7], W[i])`, one turn of the first range (R101). -/
def twistLowStep (w : WordFile) (i : Fin 18) : WordFile :=
  w.set i.val (tw w[i.val + 7] w[i.val])

/-- `W[i] <- TW(W[i - 18], W[i])` for `i = j + 18`, one turn of the second range (R101). -/
def twistHighStep (w : WordFile) (j : Fin 7) : WordFile :=
  w.set (j.val + 18) (tw w[j.val] w[j.val + 18])

/-- TWIST: the pass in place and in ascending order, so that the second range reads words 0 to 6 already replaced
(R101, R102). -/
def twist (w : WordFile) : WordFile :=
  (List.finRange 7).foldl twistHighStep ((List.finRange 18).foldl twistLowStep w)

end Sys2Proof.Machine
end

