-- ==== Sys2Proof/Machine/Draw.lean ====
section
/-! DEFINITION. The temper pipeline and the draw commands NEXT, NEXT31, NEXTF (spec file 42). -/

namespace Sys2Proof.Machine

/-- Stage 1 of TEMPER: shifts the raw word (R110). -/
def temperStage1 (x : Word) : Word := x ^^^ ((x <<< temperS) &&& temperB)

/-- Stage 2 of TEMPER: shifts the output of stage 1 (R110). -/
def temperStage2 (y : Word) : Word := y ^^^ ((y <<< temperT) &&& temperC)

/-- TEMPER(x), two stages and no third (R110). It is never written back. -/
def temper (x : Word) : Word := temperStage2 (temperStage1 x)

/-- NEXTWORD, one draw (R111): both checks before any write; the cursor is incremented first and used then; when the
incremented value reaches 25 the whole TWIST runs and the cursor becomes 0; the word is read after the twist. The value
25 is never stored. -/
def nextWord (s : State) : Except Trap (Word × State) :=
  if s.init = false then
    .error .uninitializedGenerator
  else if _h : 24 < s.cur.toNat then
    .error .cursorOutOfRange
  else if _h : s.cur.toNat + 1 = 25 then
    let w := twist s.w
    .ok (temper w[0], (s.setW w).setCur 0)
  else
    .ok (temper s.w[s.cur.toNat + 1], s.setCur (s.cur + 1))

/-- One draw command: exactly one draw, and the data words it makes of the drawn word (R112, R113, R114). -/
def drawRespond (data : Word → List Word) (s : State) : Host.Outcome State Fault Refusal :=
  match nextWord s with
  | .error t => raise t s
  | .ok (y, s') => respond s' (data y)

/-- NEXT's data: the tempered word (R112). -/
def nextData (y : Word) : List Word := [y]

/-- NEXT31's data: the tempered word with bit 31 cleared, no shift (R113). -/
def next31Data (y : Word) : List Word := [y &&& int31Mask]

/-- NEXTF's data: the two halves of F64 of the tempered word (R114). -/
def nextfData (y : Word) : List Word := halves (f64 y)

/-- NEXT (R112). -/
def execNext (s : State) : Host.Outcome State Fault Refusal := drawRespond nextData s

/-- NEXT31 (R113). -/
def execNext31 (s : State) : Host.Outcome State Fault Refusal := drawRespond next31Data s

/-- NEXTF (R114). -/
def execNextf (s : State) : Host.Outcome State Fault Refusal := drawRespond nextfData s

end Sys2Proof.Machine
end

