-- ==== Sys2Proof/Machine/Flags.lean ====
section
/-! DEFINITION. The one flag of the hardware, `INIT`, and the lifecycle it decides (R25, R26). There are no condition
codes: no arithmetic result sets a flag (R10). -/

namespace Sys2Proof.Machine

/-- `INIT <- 1`, by SEED and by SETSTATE whatever its payload (R25, R91, R131). -/
def markInitialized (s : State) : State := s.setInit true

/-- The two lifecycle states (R26). -/
inductive Lifecycle where
  | uninitialized
  | seeded
deriving DecidableEq, Repr

/-- The lifecycle state is a function of `INIT` alone (R26). -/
def lifecycle (s : State) : Lifecycle := if s.init then .seeded else .uninitialized

end Sys2Proof.Machine
end

