-- ==== Sys2Proof/Machine/Seed.lean ====
section
/-! DEFINITION. The seeded state initialization unit: SEEDFILL and the command SEED (spec file 40). -/

namespace Sys2Proof.Machine

/-- The next running seed, `u32(x * 1313 + 88897)` (R90). -/
def lcgNext (x : Word) : Word := x * lcgMul + lcgInc

/-- One turn of SEEDFILL's loop: `W[i] <- x`, then the next running seed (R90). -/
def seedfillStep (p : WordFile × Word) (i : Fin 25) : WordFile × Word :=
  (p.1.set i.val p.2, lcgNext p.2)

/-- SEEDFILL(s): all 25 words, in ascending order, from the sequence that starts at `s`; the 26th value is discarded
(R90). -/
def seedfill (w : WordFile) (s : Word) : WordFile :=
  ((List.finRange 25).foldl seedfillStep (w, s)).1

/-- SEED: SEEDFILL, `CUR <- 24`, `INIT <- 1`, no data words, no faults (R91). TWIST does not run. -/
def execSeed (seed : Word) (s : State) : Host.Outcome State Fault Refusal :=
  respond (markInitialized ((s.setW (seedfill s.w seed)).setCur curSeeded)) []

end Sys2Proof.Machine
end

