-- ==== Sys2Proof/Machine/Transfer.lean ====
section
/-! DEFINITION. State transfer: the state block and the commands GETSTATE and SETSTATE (spec file 43). -/

namespace Sys2Proof.Machine

/-- `MemRead(0, 26)`: the state block, `SB[k] = W[k]` for k in 0..24 and `SB[25] = CUR` (R9, R30). -/
def memReadBlock (s : State) : List Word := s.w.toList ++ [s.cur]

/-- `MemWrite(0, 26, P)`: `W[k] <- P[k]` for k in 0..24 and `CUR <- P[25]`, verbatim (R9, R30, R131). -/
def memWriteBlock (s : State) (words : WordFile) (cursor : Word) : State :=
  (s.setW words).setCur cursor

/-- GETSTATE: 26 data words, nothing written, no faults; `INIT` is neither read nor returned (R130). -/
def execGetstate (s : State) : Host.Outcome State Fault Refusal :=
  respond s (memReadBlock s)

/-- SETSTATE: the block overwritten without any validation, `INIT <- 1`, no data words, no faults (R131). -/
def execSetstate (words : WordFile) (cursor : Word) (s : State) : Host.Outcome State Fault Refusal :=
  respond (markInitialized (memWriteBlock s words cursor)) []

end Sys2Proof.Machine
end

