-- ==== Sys2Proof/Syntax.lean ====
section
/-! DEFINITION. The six commands of the opcode map (R66), in their decoded form (R60). -/

namespace Sys2Proof

/-- A legal command with its operands, one constructor per row of the opcode table. `ILLEGAL(header)` of R60 is no
row of the table: it is the decoder's verdict `Command.illegal` (Sys2Proof/Decode.lean). -/
inductive Instr where
  /-- SEED: fill the word file from a 32-bit seed (R91). -/
  | seed (seed : Word)
  /-- NEXT: draw one 32-bit word (R112). -/
  | next
  /-- NEXT31: draw one non-negative 31-bit integer (R113). -/
  | next31
  /-- NEXTF: draw one binary64 number in [0, 1) (R114). -/
  | nextf
  /-- GETSTATE: copy the state block out (R130). -/
  | getstate
  /-- SETSTATE: copy a snapshot, 25 words and a cursor, in (R131). -/
  | setstate (words : WordFile) (cursor : Word)
deriving DecidableEq, Repr

end Sys2Proof
end

