-- ==== Sys2Proof/Machine/Dispatch.lean ====
section
/-! DEFINITION. One arm per command: its meaning. -/

namespace Sys2Proof.Machine

def exec (i : Instr) (s : State) : Host.Outcome State Fault Refusal :=
  match i with
  | .seed seed => Sys2Proof.Machine.execSeed seed s
  | .next => Sys2Proof.Machine.execNext s
  | .next31 => Sys2Proof.Machine.execNext31 s
  | .nextf => Sys2Proof.Machine.execNextf s
  | .getstate => Sys2Proof.Machine.execGetstate s
  | .setstate words cursor => Sys2Proof.Machine.execSetstate words cursor s

end Sys2Proof.Machine
end

