-- ==== Sys2Proof/Machine/Operands.lean ====
section
/-! DEFINITION. Operand assembly (R65): every operand is a whole payload word, taken verbatim. -/

namespace Sys2Proof.Machine

/-- Format I: `seed = imm32`, all 32 bits (R63, R65 (a)). -/
def seedOperand (p : Vector Word 1) : Word := p[0]

/-- Format B: the new `W[k]` is `P[k]` for k in 0..24 (R64, R65 (b)). -/
def snapshotWords (p : Vector Word 26) : WordFile := Vector.ofFn fun k : Fin 25 => p[k.val]

/-- Format B: the new `CUR` is `P[25]`, not checked (R64, R65 (b)). -/
def snapshotCursor (p : Vector Word 26) : Word := p[25]

end Sys2Proof.Machine
end

