-- ==== Sys2Proof/WellFormed.lean ====
section
/-! DEFINITION. Well-formedness: of a decoded command, and of the words of one command on the stream. -/

namespace Sys2Proof

/-- A decoded command is well formed whatever its operands: every 32-bit seed is legal (R65 (a), R91), every payload
word of SETSTATE is accepted (R65 (b), R70, R131), and the type of the payload already fixes its 25 words. -/
def Instr.wellFormed : Instr → Bool
  | .seed _ => true
  | .next => true
  | .next31 => true
  | .nextf => true
  | .getstate => true
  | .setstate _ _ => true

/-- The reserved field of a header word, bits [31:8], is zero (R61). -/
def headerReservedZero (h : Word) : Bool := h >>> 8 == 0

/-- The opcode field of a header word, bits [7:0], is one of the six of R66. -/
def headerOpcodeKnown (h : Word) : Bool :=
  let opcode := h &&& 0xff
  1 ≤ opcode && opcode ≤ 6

/-- The number of payload words the header asks for (R62, R63, R64, R68). -/
def headerPayloadWords (h : Word) : Nat :=
  if h = 0x00000001 then 1 else if h = 0x00000006 then 26 else 0

/-- These words are exactly ONE legal command: a legal header and as many payload words as its format has. -/
def commandWordsWellFormed : List Word → Bool
  | [] => false
  | h :: payload =>
    headerReservedZero h && headerOpcodeKnown h && payload.length == headerPayloadWords h

end Sys2Proof
end

