-- ==== Sys2Proof/Decode.lean ====
section
/-! DEFINITION. The command decoder, total on any sequence of words (R60 to R71), and after it the encoder. -/

namespace Sys2Proof

/-- The decoded form of a command (R60): one of the six, or the total decoder's verdict on any other header. -/
inductive Command where
  /-- a command of the opcode map -/
  | legal (i : Instr)
  /-- `ILLEGAL(header)`: the header word selects no command (R69) -/
  | illegal (header : Word)
deriving DecidableEq, Repr

/-- The names of the six opcodes of R66. -/
inductive Opcode where
  | seed | next | next31 | nextf | getstate | setstate
deriving DecidableEq, Repr

/-- The three command formats (R62, R63, R64). -/
inductive Format where
  /-- zero operands: the header alone (R62) -/
  | z
  /-- one 32-bit immediate (R63) -/
  | i
  /-- one snapshot block of 26 words (R64) -/
  | b
deriving DecidableEq, Repr

/-- The payload words of a format (R62, R63, R64). -/
def Format.payloadWords : Format → Nat
  | .z => 0
  | .i => 1
  | .b => 26

/-- One row of the opcode map (R66): the header word selects the row when it equals `pattern` under `mask`. -/
structure OpcodeRow where
  mask : Word
  pattern : Word
  op : Opcode
  format : Format
deriving DecidableEq, Repr

/-- The opcode map of R66, in its order. -/
def opcodeTable : List OpcodeRow :=
  [ ⟨0xffffffff, 0x00000001, .seed, .i⟩,
    ⟨0xffffffff, 0x00000002, .next, .z⟩,
    ⟨0xffffffff, 0x00000003, .next31, .z⟩,
    ⟨0xffffffff, 0x00000004, .nextf, .z⟩,
    ⟨0xffffffff, 0x00000005, .getstate, .z⟩,
    ⟨0xffffffff, 0x00000006, .setstate, .b⟩ ]

/-- The row a header word selects, if it selects one (R66, R69). -/
def selectRow (h : Word) : Option OpcodeRow :=
  opcodeTable.find? fun r => h &&& r.mask == r.pattern

/-- The length of a command in words, a function of its header alone: an illegal header is one word long (R68). -/
def commandLength (h : Word) : Nat :=
  match selectRow h with
  | some r => 1 + r.format.payloadWords
  | none => 1

/-- The first `n` words of the stream as a payload, and the words after it; none while the stream holds fewer (R71). -/
def takePayload (n : Nat) (ws : List Word) : Option (Vector Word n × List Word) :=
  if h : n ≤ ws.length then
    some (⟨(ws.take n).toArray, by simp [h]⟩, ws.drop n)
  else
    none

/-- The operands of the opcode, assembled from the words after the header (R62 to R65). -/
def decodeOperands (op : Opcode) (ws : List Word) : Option (Instr × List Word) :=
  match op with
  | .seed => (takePayload 1 ws).map fun p => (.seed (Machine.seedOperand p.1), p.2)
  | .next => some (.next, ws)
  | .next31 => some (.next31, ws)
  | .nextf => some (.nextf, ws)
  | .getstate => some (.getstate, ws)
  | .setstate =>
    (takePayload 26 ws).map fun p =>
      (.setstate (Machine.snapshotWords p.1) (Machine.snapshotCursor p.1), p.2)

/-- The first command of a stream of words and the words after it (R60, R66, R68, R69). The answer is `none` exactly
while no whole command is there: no word at all, or a header whose payload is cut short (R71). -/
def decode : List Word → Option (Command × List Word)
  | [] => none
  | h :: ws =>
    match selectRow h with
    | some r => (decodeOperands r.op ws).map fun p => (.legal p.1, p.2)
    | none => some (.illegal h, ws)

/-! The encoder, from the same tables. -/

/-- The header word of a command (R66). -/
def encodeHeader : Instr → Word
  | .seed _ => 0x00000001
  | .next => 0x00000002
  | .next31 => 0x00000003
  | .nextf => 0x00000004
  | .getstate => 0x00000005
  | .setstate _ _ => 0x00000006

/-- The payload words of a command (R63, R64). -/
def encodePayload : Instr → List Word
  | .seed s => [s]
  | .next => []
  | .next31 => []
  | .nextf => []
  | .getstate => []
  | .setstate ws c => ws.toList ++ [c]

/-- The words of a command as they stand on the command stream (R60). -/
def encode (i : Instr) : List Word := encodeHeader i :: encodePayload i

/-- The words of a decoded command, an illegal header included (R60, R69). -/
def encodeCommand : Command → List Word
  | .legal i => encode i
  | .illegal h => [h]

/-! The opcode table's numbering of an instruction's bits. -/

/-- The words of an instruction whose bits are `w`, numbered as the opcode table numbers them: bit 0 is the least
significant bit of the header, word `k` is bits 32k+31..32k, and every bit from `nbits` up to the longest command
(27 words, R64) is zero. Words have no byte order here (R43). -/
def tableWords (nbits w : Nat) : List Word :=
  (List.range 27).map fun k => BitVec.ofNat 32 ((w % 2 ^ nbits) >>> (32 * k))

/-- The words of the ONE command that starts with those bits: as many as its header says (R68). -/
def tableCommandWords (nbits w : Nat) : List Word :=
  (tableWords nbits w).take (commandLength (BitVec.ofNat 32 (w % 2 ^ nbits)))

/-- What the decoder reads from an instruction whose bits are `w`; none where the header is illegal. -/
def decodeTableWord (nbits w : Nat) : Option Instr :=
  match decode (tableWords nbits w) with
  | some (.legal i, _) => some i
  | some (.illegal _, _) => none
  | none => none

end Sys2Proof
end

