-- ==== Sys2Proof/Machine/Fetch.lean ====
section
/-! DEFINITION. How the sequencer takes its next command from what the host presents (R60, R68, R71, R170). -/

namespace Sys2Proof.Machine

/-- What stands at the head of the host's events. -/
inductive Fetched where
  /-- a whole command, and the events after it -/
  | command (c : Command) (rest : List HostEvent)
  /-- the reset event, with the partly received command before it discarded (R170) -/
  | reset (rest : List HostEvent)
  /-- no whole command and no reset event yet (R71) -/
  | waiting
deriving DecidableEq, Repr

/-- The words before the first reset event, and the events after that reset event if there is one. -/
def splitAtReset : List HostEvent → List Word × Option (List HostEvent)
  | [] => ([], none)
  | .reset :: es => ([], some es)
  | .word w :: es => (w :: (splitAtReset es).1, (splitAtReset es).2)

/-- Words of the command stream as host events. -/
def wordEvents (ws : List Word) : List HostEvent := ws.map .word

/-- `splitAtReset` undone: the words, then the reset event and what follows it. -/
def rejoin (ws : List Word) : Option (List HostEvent) → List HostEvent
  | none => wordEvents ws
  | some es => wordEvents ws ++ .reset :: es

/-- The next thing to do: the first command if all its words arrived before a reset event; else that reset event; else
nothing yet. -/
def fetch (es : List HostEvent) : Fetched :=
  match decode (splitAtReset es).1 with
  | some (c, rest) => .command c (rejoin rest (splitAtReset es).2)
  | none =>
    match (splitAtReset es).2 with
    | some rest => .reset rest
    | none => .waiting

end Sys2Proof.Machine
end

