-- ==== Sys2Proof/Machine/Step.lean ====
section
/-! DEFINITION. One step of the machine: the complete execution of one command, atomically (R11), or the reset event
between two commands (R170). -/

namespace Sys2Proof.Machine

/-- The step of R11 on the decoded form of a command (R60). -/
def runCommand (c : Command) (s : State) : Host.Outcome State Fault Refusal :=
  match c with
  | .legal i => exec i s
  | .illegal h => execIllegal h s

/-- One step: take the next command from the stream and run it (R11, R60, R68); take the reset event (R170); or, while
no whole command is there, stay as it is (R71; log entry 2). -/
def step (s : State) : Host.Outcome State Fault Refusal :=
  match fetch s.input with
  | .command c rest => runCommand c (s.setInput rest)
  | .reset rest => takeReset (s.setInput rest)
  | .waiting => awaitWords s

/-- The host presents the instruction whose bits are `w` next: its words, as many as its header says, stand at the head
of the command stream, before everything the stream already held (log entry 12). -/
def State.withFetchWord (s : State) (nbits w : Nat) : State :=
  s.setInput (wordEvents (tableCommandWords nbits w) ++ s.input)

end Sys2Proof.Machine
end

