-- ==== Sys2Proof/Config.lean ====
section
/-! DEFINITION. What the spec leaves open. It leaves ONE parameter open, and that one is the host's: R7 fixes every
other implementation parameter, and R180 says that the hardware draws no unspecified value anywhere. The fixed
algorithm constants of R6 are in Sys2Proof/Machine/Params.lean. -/

namespace Sys2Proof

/-- The order in which a host lays the four bytes of a word out when it serialises a snapshot (R43, decision D8). -/
inductive ByteOrder where
  /-- least significant byte first -/
  | little
  /-- most significant byte first -/
  | big
deriving DecidableEq, Repr, Inhabited

/-- `SNAPSHOT_BYTE_ORDER` of R7: OPEN. No rule of the block reads it, and no proof can see its value.
DESIGN CHOICE that it is one of the two usual orders (log entry 9). -/
opaque Config.snapshotByteOrder : ByteOrder

end Sys2Proof
end

