-- ==== Sys2Proof/Machine/HostSide.lean ====
section
/-! DEFINITION. What a host does with the 26 data words of a GETSTATE response, as pure functions: the text of the
pseudo-instruction DUMP (R82, R133), and the bytes of a persisted snapshot (R43). No rule of the block reads them. -/

namespace Sys2Proof.Machine

/-- One hexadecimal digit, lower case (R133). -/
def hexDigit (n : Nat) : Char := if n < 10 then Char.ofNat (48 + n) else Char.ofNat (87 + n)

/-- A word as `0x` and exactly 8 hexadecimal digits, most significant digit first (R133). -/
def renderWord (w : Word) : List Char :=
  '0' :: 'x' :: [7, 6, 5, 4, 3, 2, 1, 0].map fun k => hexDigit ((w.toNat / 16 ^ k) % 16)

/-- The words of one line, one space between two of them (R133). -/
def renderWords : List Word → List Char
  | [] => []
  | [w] => renderWord w
  | w :: v :: ws => renderWord w ++ ' ' :: renderWords (v :: ws)

/-- The dump of a snapshot: the cursor on line 1, the 25 words in index order on line 2, a newline after each (R133). -/
def renderDump (words : WordFile) (cursor : Word) : List Char :=
  renderWord cursor ++ '\n' :: (renderWords words.toList ++ ['\n'])

/-- The four bytes of a word in a byte order (R43). -/
def wordBytes (order : ByteOrder) (w : Word) : List Byte :=
  let low := [w.extractLsb' 0 8, w.extractLsb' 8 8, w.extractLsb' 16 8, w.extractLsb' 24 8]
  match order with
  | .little => low
  | .big => low.reverse

/-- The word that four bytes spell in a byte order (R43). -/
def wordOfBytes (order : ByteOrder) (a b c d : Byte) : Word :=
  match order with
  | .little => d ++ c ++ b ++ a
  | .big => a ++ b ++ c ++ d

/-- A snapshot's words as bytes (R43). -/
def snapshotBytes (order : ByteOrder) (ws : List Word) : List Byte := ws.flatMap (wordBytes order)

/-- The words that a host reads back from bytes; a rest of fewer than four bytes is no word (R43). -/
def snapshotOfBytes (order : ByteOrder) : List Byte → List Word
  | a :: b :: c :: d :: bytes => wordOfBytes order a b c d :: snapshotOfBytes order bytes
  | _ => []

/-- The bytes that this platform's host stores for a snapshot, under its open parameter (R7, R43). -/
def persistSnapshot (ws : List Word) : List Byte := snapshotBytes Config.snapshotByteOrder ws

/-- The snapshot that this platform's host reads back (R7, R43). -/
def restoreSnapshot (bytes : List Byte) : List Word := snapshotOfBytes Config.snapshotByteOrder bytes

end Sys2Proof.Machine
end

