-- ==== Sys2Proof/Machine/Assembler.lean ====
section
/-! DEFINITION. The assembler of R80 to R82: command lists as text into the words of a command stream. It is host-side
and no rule of the block reads it. What R80 leaves open of the text's layout is in log entry 10. -/

namespace Sys2Proof.Machine

/-- White space inside a line. -/
def isSpaceChar (c : Char) : Bool := c == ' ' || c == '\t' || c == '\r'

/-- A text without the white space around it. -/
def trimSpaces (cs : List Char) : List Char :=
  ((cs.dropWhile isSpaceChar).reverse.dropWhile isSpaceChar).reverse

/-- A text cut at every separator; a text without one is one piece. -/
def splitAtChar (sep : Char) : List Char → List (List Char)
  | [] => [[]]
  | c :: cs =>
    if c = sep then
      [] :: splitAtChar sep cs
    else
      match splitAtChar sep cs with
      | [] => [[c]]
      | piece :: pieces => (c :: piece) :: pieces

/-- The value of a digit in a base of at most 16, if it is one. -/
def digitValue (base : Nat) (c : Char) : Option Nat :=
  let n := c.toNat
  let v := if 48 ≤ n ∧ n ≤ 57 then n - 48
    else if 97 ≤ n ∧ n ≤ 102 then n - 87
    else if 65 ≤ n ∧ n ≤ 70 then n - 55
    else 16
  if v < base then some v else none

/-- The value of a row of digits that continues the value `acc`. -/
def digitsValue (base acc : Nat) : List Char → Option Nat
  | [] => some acc
  | c :: cs =>
    match digitValue base c with
    | some v => digitsValue base (acc * base + v) cs
    | none => none

/-- A number: decimal, or hexadecimal with `0x`; it must fit in 32 bits unsigned (R80). -/
def parseImm32 (cs : List Char) : Option Word :=
  let value := match cs with
    | [] => none
    | ['0', 'x'] => none
    | '0' :: 'x' :: ds => digitsValue 16 0 ds
    | ds => digitsValue 10 0 ds
  match value with
  | some v => if v < 2 ^ 32 then some (BitVec.ofNat 32 v) else none
  | none => none

/-- All the answers, if each is there. -/
def allSome {α : Type} : List (Option α) → Option (List α)
  | [] => some []
  | none :: _ => none
  | some a :: rest => (allSome rest).map (a :: ·)

/-- The operands after a mnemonic, separated by commas (R80). -/
def parseOperands (cs : List Char) : Option (List Word) :=
  if cs = [] then some [] else allSome ((splitAtChar ',' cs).map fun p => parseImm32 (trimSpaces p))

/-- The words of one command: the table of R80, and DUMP as GETSTATE (R82). -/
def assembleCommand (mnemonic : List Char) (operands : List Word) : Option (List Word) :=
  if mnemonic = ['S', 'E', 'E', 'D'] then
    if operands.length = 1 then some (0x00000001 :: operands) else none
  else if mnemonic = ['N', 'E', 'X', 'T'] then
    if operands = [] then some [0x00000002] else none
  else if mnemonic = ['N', 'E', 'X', 'T', '3', '1'] then
    if operands = [] then some [0x00000003] else none
  else if mnemonic = ['N', 'E', 'X', 'T', 'F'] then
    if operands = [] then some [0x00000004] else none
  else if mnemonic = ['G', 'E', 'T', 'S', 'T', 'A', 'T', 'E'] then
    if operands = [] then some [0x00000005] else none
  else if mnemonic = ['S', 'E', 'T', 'S', 'T', 'A', 'T', 'E'] then
    if operands.length = 26 then some (0x00000006 :: operands) else none
  else if mnemonic = ['D', 'U', 'M', 'P'] then
    if operands = [] then some [0x00000005] else none
  else if mnemonic = ['.', 'w', 'o', 'r', 'd'] then
    if operands.length = 1 then some operands else none
  else
    none

/-- One line: a comment starts at `;` and runs to the line's end; a blank line gives no word (R80). -/
def assembleLine (line : List Char) : Option (List Word) :=
  let text := trimSpaces (line.takeWhile fun c => c != ';')
  if text = [] then
    some []
  else
    let mnemonic := text.takeWhile fun c => !isSpaceChar c
    match parseOperands (trimSpaces (text.drop mnemonic.length)) with
    | some operands => assembleCommand mnemonic operands
    | none => none

/-- A command list, one command per line (R80); none where a line is not of the form R80 gives. -/
def assemble (text : List Char) : Option (List Word) :=
  (allSome ((splitAtChar '\n' text).map assembleLine)).map List.flatten

/-- Operands in hexadecimal with `0x`, separated by commas (R80). -/
def listingOperands : List Word → List Char
  | [] => []
  | [w] => renderWord w
  | w :: v :: ws => renderWord w ++ ',' :: ' ' :: listingOperands (v :: ws)

/-- The mnemonic of a command (R66, R80). -/
def mnemonicText : Instr → List Char
  | .seed _ => ['S', 'E', 'E', 'D']
  | .next => ['N', 'E', 'X', 'T']
  | .next31 => ['N', 'E', 'X', 'T', '3', '1']
  | .nextf => ['N', 'E', 'X', 'T', 'F']
  | .getstate => ['G', 'E', 'T', 'S', 'T', 'A', 'T', 'E']
  | .setstate _ _ => ['S', 'E', 'T', 'S', 'T', 'A', 'T', 'E']

/-- One line of a command list, an illegal header as the raw word of `.word` (R80). -/
def listing : Command → List Char
  | .legal i => mnemonicText i ++ ' ' :: listingOperands (encodePayload i)
  | .illegal h => ['.', 'w', 'o', 'r', 'd', ' '] ++ renderWord h

/-- A command list as text, one command per line (R80). -/
def listingText : List Command → List Char
  | [] => []
  | c :: cs => listing c ++ '\n' :: listingText cs

end Sys2Proof.Machine
end

