-- ==== Sys2Proof/Safety.lean ====
section
/-! DEFINITION. The terms claims are stated in: what a legal cursor, a draw, a run, an equal block and the value of a
binary64 pattern are, and the spec's own sequences, written here apart from the loops of the meanings. -/

namespace Sys2Proof.Machine

/-- The legal cursors, 0 to 24 (R24). -/
def cursorLegal (c : Word) : Prop := c.toNat ≤ 24

/-- The invariant of R33 (b): before the first SEED or SETSTATE the block holds its reset content. -/
def State.uninitZero (s : State) : Prop :=
  s.init = false → s.w = WordFile.zero ∧ s.cur = 0

/-- Two machines whose blocks are in equal states (R27), whatever stands on their streams. -/
def State.sameBlock (s t : State) : Prop :=
  s.w = t.w ∧ s.cur = t.cur ∧ s.init = t.init

/-- `seed_k` of the expansion that starts at `s`: `seed_0 = s`, `seed_{k+1} = seed_k * 1313 + 88897` (R90). -/
def seedTerm (s : Word) : Nat → Word
  | 0 => s
  | k + 1 => seedTerm s k * 1313 + 88897

/-- The file of the expansion, `G_0` of R116. -/
def seedFile (s : Word) : WordFile := Vector.ofFn fun k : Fin 25 => seedTerm s k.val

/-- `G_j` of R116: the file after `j` passes of TWIST. -/
def twistPow (g : WordFile) : Nat → WordFile
  | 0 => g
  | j + 1 => twist (twistPow g j)

/-- The draws: NEXT, NEXT31, NEXTF (R12). -/
def isDraw : Instr → Bool
  | .seed _ => false
  | .next => true
  | .next31 => true
  | .nextf => true
  | .getstate => false
  | .setstate _ _ => false

/-- The data words a draw command makes of the drawn word (R74); no other command draws. -/
def drawData : Instr → Word → List Word
  | .seed _, _ => []
  | .next, y => [y]
  | .next31, y => [y &&& 0x7fffffff]
  | .nextf, y => [(f64 y).extractLsb' 0 32, (f64 y).extractLsb' 32 32]
  | .getstate, _ => []
  | .setstate _ _, _ => []

/-- The number of data words of an OK response, by command (R74). -/
def okDataWords : Instr → Nat
  | .seed _ => 0
  | .next => 1
  | .next31 => 1
  | .nextf => 2
  | .getstate => 26
  | .setstate _ _ => 0

/-- A command that is a value of R60: a legal command, or `ILLEGAL` of a header that selects none. -/
def isDecoded : Command → Bool
  | .legal _ => true
  | .illegal h => (selectRow h).isNone

/-- A command is a draw (R12). -/
def isDrawCommand : Command → Bool
  | .legal i => isDraw i
  | .illegal _ => false

/-- A command that neither draws nor writes the block: GETSTATE, or an illegal header (R130, R142). -/
def isReadOnlyCommand : Command → Bool
  | .legal .getstate => true
  | .legal (.seed _) => false
  | .legal .next => false
  | .legal .next31 => false
  | .legal .nextf => false
  | .legal (.setstate _ _) => false
  | .illegal _ => true

/-- The draws in a list of commands (R116). -/
def countDraws (cs : List Command) : Nat := (cs.filter isDrawCommand).length

/-- A run on decoded commands, in order (R180). -/
def runCommands : List Command → State → Host.Outcome State Fault Refusal
  | [], s => .next s
  | c :: cs, s =>
    match runCommand c s with
    | .next t => runCommands cs t
    | .fault f => .fault f
    | .refused r => .refused r

/-- `k` steps of the machine (R180). -/
def runSteps : Nat → State → Host.Outcome State Fault Refusal
  | 0, s => .next s
  | k + 1, s =>
    match step s with
    | .next t => runSteps k t
    | .fault f => .fault f
    | .refused r => .refused r

/-- The exponent field of a binary64 pattern, bits 62 to 52 (R115). -/
def binary64Exponent (f : BitVec 64) : Nat := (f.extractLsb' 52 11).toNat

/-- The fraction field of a binary64 pattern, bits 51 to 0 (R115). -/
def binary64Fraction (f : BitVec 64) : Nat := (f.extractLsb' 0 52).toNat

/-- The value of a binary64 pattern as R115 gives it: `+0.0` for the all-zero pattern, `(-1)^sign * 2^(E - 1023) *
(1 + frac / 2^52)` for an exponent field E in 1..2046, and none for the patterns R115 says nothing of. -/
def binary64Value (f : BitVec 64) : Option ℚ :=
  if f = 0 then
    some 0
  else if 1 ≤ binary64Exponent f ∧ binary64Exponent f ≤ 2046 then
    some ((if f.getLsbD 63 then -1 else 1) * (2 : ℚ) ^ ((binary64Exponent f : ℤ) - 1023)
      * (1 + (binary64Fraction f : ℚ) / 2 ^ 52))
  else
    none

end Sys2Proof.Machine
end

