-- ==== Sys2Proof/Certificates/Slice0/Obligations.lean ====
section
/-! DEFINITION. The statements for the provers. A statement quantifies over every state and every operand unless it
names a hypothesis; a witness for each hypothesis stands in Sys2Proof/Tests/Slice0.lean. -/

open Sys2Proof Sys2Proof.Machine

/-! ## Encoding -/

/-- Every command of R60, an illegal header included, is read back from its words whatever follows them. -/
def Obligations.DecodeOfEncodeGivesCommand : Prop :=
  ∀ (c : Command) (rest : List Word), isDecoded c = true →
    decode (encodeCommand c ++ rest) = some (c, rest)

/-- The decoder reads nothing but the words of the command it answers, and answers only values of R60. -/
def Obligations.DecodeReadsExactlyTheCommand : Prop :=
  ∀ (ws : List Word) (c : Command) (rest : List Word), decode ws = some (c, rest) →
    isDecoded c = true ∧ ws = encodeCommand c ++ rest

/-- The opcode map of R66 with the formats of R62, R63, R64: six header words and no other select a command. -/
def Obligations.OpcodeMapSelectsSixHeaders : Prop :=
  (∀ (x : Word) (rest : List Word), decode (0x00000001 :: x :: rest) = some (.legal (.seed x), rest)) ∧
  (∀ rest : List Word, decode (0x00000002 :: rest) = some (.legal .next, rest)) ∧
  (∀ rest : List Word, decode (0x00000003 :: rest) = some (.legal .next31, rest)) ∧
  (∀ rest : List Word, decode (0x00000004 :: rest) = some (.legal .nextf, rest)) ∧
  (∀ rest : List Word, decode (0x00000005 :: rest) = some (.legal .getstate, rest)) ∧
  (∀ (ws : WordFile) (c : Word) (rest : List Word),
    decode (0x00000006 :: (ws.toList ++ c :: rest)) = some (.legal (.setstate ws c), rest)) ∧
  (∀ (h : Word) (rest : List Word),
    h ∉ ([0x00000001, 0x00000002, 0x00000003, 0x00000004, 0x00000005, 0x00000006] : List Word) →
    decode (h :: rest) = some (.illegal h, rest))

/-- The two fields of the header (R61): a header is illegal exactly when its reserved field is not zero or its opcode
field is not 1 to 6. -/
def Obligations.HeaderFieldsDecideLegality : Prop :=
  ∀ (h : Word) (rest : List Word),
    decode (h :: rest) = some (.illegal h, rest) ↔
      ¬ (h.extractLsb' 8 24 = 0 ∧ 1 ≤ (h.extractLsb' 0 8).toNat ∧ (h.extractLsb' 0 8).toNat ≤ 6)

/-- The length of a command is a function of its header word alone (R68), and no command is there while the stream
holds fewer words (R71). -/
def Obligations.HeaderAloneDecidesLength : Prop :=
  ∀ (h : Word) (ws : List Word),
    (decode (h :: ws) = none ↔
      ws.length + 1 < (if h = 0x00000001 then 2 else if h = 0x00000006 then 27 else 1)) ∧
    (∀ (c : Command) (rest : List Word), decode (h :: ws) = some (c, rest) →
      rest = (h :: ws).drop (if h = 0x00000001 then 2 else if h = 0x00000006 then 27 else 1) ∧
      ws.length + 1 = rest.length + (if h = 0x00000001 then 2 else if h = 0x00000006 then 27 else 1))

/-- Words written out from R66 and R75. A sanity statement. -/
def Obligations.WorkedEncodingsDecode : Prop :=
  decode [0x00000001, 0x00000001] = some (.legal (.seed 1), []) ∧
  decode [0x00000002] = some (.legal .next, []) ∧
  decode [0x00000003] = some (.legal .next31, []) ∧
  decode [0x00000004] = some (.legal .nextf, []) ∧
  decode [0x00000005] = some (.legal .getstate, []) ∧
  decode [0x00000102] = some (.illegal 0x00000102, []) ∧
  decode [0x80000002] = some (.illegal 0x80000002, [])

/-! ## The step -/

/-- When the words before the next reset event begin with a legal command, a step is `exec` of it, on the state whose
command stream is what follows the command's words. -/
def Obligations.StepRunsDecodedInstruction : Prop :=
  ∀ (s : State) (i : Instr) (rest : List Word),
    i.wellFormed = true → decode (splitAtReset s.input).1 = some (.legal i, rest) →
    step s = exec i { s with input := rejoin rest (splitAtReset s.input).2 }

/-- A step runs the command the host presents, whatever the host presents after it, reset events included. -/
def Obligations.StepRunsPresentedCommand : Prop :=
  ∀ (s : State) (c : Command) (tail : List HostEvent), isDecoded c = true →
    step { s with input := wordEvents (encodeCommand c) ++ tail } = runCommand c { s with input := tail }

/-- R48, R180: as many steps as there are commands on the stream run exactly those commands, in stream order; the bit
level refines the run on decoded commands. -/
def Obligations.StreamRunIsCommandRun : Prop :=
  ∀ (cs : List Command) (s : State) (tail : List HostEvent), (∀ c ∈ cs, isDecoded c = true) →
    runSteps cs.length { s with input := wordEvents (cs.flatMap encodeCommand) ++ tail } =
      runCommands cs { s with input := tail }

/-- R69, R142: a header that is none of the six takes IllegalCommand, consumes one word and changes no state; the next
word is the next header. -/
def Obligations.IllegalHeaderFaultsAndIsConsumed : Prop :=
  ∀ (s : State) (h : Word) (tail : List HostEvent),
    h ∉ ([0x00000001, 0x00000002, 0x00000003, 0x00000004, 0x00000005, 0x00000006] : List Word) →
    step { s with input := .word h :: tail } =
      .next { s with input := tail, out := s.out ++ [.fault .illegalCommand] } ∧
    responseWords (.fault .illegalCommand) = [0x00000002]

/-- R71: with a SEED or SETSTATE header whose payload is cut short, or with no word at all, and no reset event behind
it, nothing changes and no response is produced. That the model's step answers the unchanged state, where R71 says that
there is no step, is the model's choice (log entry 2). -/
def Obligations.PartialCommandWaits : Prop :=
  ∀ (s : State) (payload : List Word),
    step { s with input := [] } = .next { s with input := [] } ∧
    step { s with input := wordEvents [0x00000001] } = .next { s with input := wordEvents [0x00000001] } ∧
    (payload.length < 26 →
      step { s with input := wordEvents (0x00000006 :: payload) } =
        .next { s with input := wordEvents (0x00000006 :: payload) })

/-- R170: a reset event discards a partly received command, installs the reset state of R32 and produces no response;
what the host presents after it is next. That the reset event stands in the list of host events, and that the responses
already produced stay, is the model's choice (log entry 3). -/
def Obligations.ResetEventDiscardsPartialCommand : Prop :=
  ∀ (s : State) (ws : List Word) (tail : List HostEvent), decode ws = none →
    step { s with input := wordEvents ws ++ .reset :: tail } =
      .next { s with w := Vector.replicate 25 0, cur := 0, init := false, input := tail }

/-- The reset values of R32. -/
def Obligations.ResetStateIsUninitializedDefault : Prop :=
  (∀ k : Fin 25, State.reset.w[k.val] = 0x00000000) ∧
  State.reset.cur = 0x00000000 ∧ State.reset.init = false ∧
  lifecycle State.reset = .uninitialized

/-- R179, R11: the step is total: from every state, reachable or not, the machine goes on. -/
def Obligations.EveryStepAnswersNextState : Prop :=
  ∀ s : State, ∃ t : State, step s = .next t

/-! ## Invariants and whole-machine rules -/

/-- R33 (b): INIT = 0 implies that W is all zero and CUR = 0; every step keeps it. -/
def Obligations.StepKeepsUninitializedBlockZero : Prop :=
  ∀ s t : State, s.uninitZero → step s = .next t → t.uninitZero

/-- R33 (b) at reset. -/
def Obligations.ResetBlockIsZeroWhileUninitialized : Prop :=
  State.reset.uninitZero

/-- R25: a step sets INIT only by SEED or SETSTATE, and clears it only by the reset event. -/
def Obligations.InitSetBySeedOrSetstateClearedByReset : Prop :=
  ∀ s t : State, step s = .next t →
    (s.init = false → t.init = true →
      ∃ (i : Instr) (rest : List HostEvent), fetch s.input = .command (.legal i) rest ∧
        ((∃ x, i = .seed x) ∨ (∃ ws c, i = .setstate ws c))) ∧
    (s.init = true → t.init = false → ∃ rest, fetch s.input = .reset rest)

/-- R26: the lifecycle state is a function of `INIT` alone, and the transition table. The clause about an illegal header
is R142: it can be raised in either lifecycle state and changes none. -/
def Obligations.LifecycleTransitionTable : Prop :=
  (∀ s : State, (lifecycle s = .seeded ↔ s.init = true) ∧ (lifecycle s = .uninitialized ↔ s.init = false)) ∧
  (∀ (x : Word) (s : State), ∃ t, exec (.seed x) s = .next t ∧ lifecycle t = .seeded) ∧
  (∀ (ws : WordFile) (c : Word) (s : State),
    ∃ t, exec (.setstate ws c) s = .next t ∧ lifecycle t = .seeded) ∧
  (∀ s : State, ∃ t, exec .getstate s = .next t ∧ lifecycle t = lifecycle s) ∧
  (∀ (h : Word) (s : State) (tail : List HostEvent),
    h ∉ ([0x00000001, 0x00000002, 0x00000003, 0x00000004, 0x00000005, 0x00000006] : List Word) →
    ∃ t, step { s with input := .word h :: tail } = .next t ∧ lifecycle t = lifecycle s ∧
      t.sameBlock s ∧ t.input = tail ∧ t.out = s.out ++ [.fault .illegalCommand] ∧
      responseWords (.fault .illegalCommand) = [0x00000002]) ∧
  (∀ (i : Instr) (s : State), isDraw i = true →
    ∃ t, exec i s = .next t ∧ lifecycle t = lifecycle s ∧
      (lifecycle s = .uninitialized →
        t.out = s.out ++ [.fault .uninitializedGenerator] ∧ t.sameBlock s)) ∧
  (∀ (s : State) (tail : List HostEvent),
    ∃ t, step { s with input := .reset :: tail } = .next t ∧ lifecycle t = .uninitialized)

/-- R33 (c): only a SETSTATE whose last payload word is above 24 takes a legal cursor out of 0..24. -/
def Obligations.OnlyBadSetstateMakesCursorIllegal : Prop :=
  ∀ s t : State, step s = .next t → cursorLegal s.cur → ¬ cursorLegal t.cur →
    ∃ (ws : WordFile) (c : Word) (rest : List HostEvent),
      fetch s.input = .command (.legal (.setstate ws c)) rest ∧ 24 < c.toNat ∧ t.cur = c

/-- R143: the only ways back from a cursor above 24 are SEED, a SETSTATE with a cursor in 0..24, and reset. -/
def Obligations.OnlySeedSetstateResetRepairCursor : Prop :=
  ∀ s t : State, step s = .next t → ¬ cursorLegal s.cur → cursorLegal t.cur →
    (∃ x rest, fetch s.input = .command (.legal (.seed x)) rest ∧ t.cur = 24) ∨
    (∃ ws c rest, fetch s.input = .command (.legal (.setstate ws c)) rest ∧ c.toNat ≤ 24 ∧ t.cur = c) ∨
    (∃ rest, fetch s.input = .reset rest ∧ t.cur = 0)

/-- R72, R73, R74: every executed command, legal or illegal, produces exactly one response, at the end of the response
stream; its first word is a status word 0 to 3, data words follow only status 0, and their number is the command's. -/
def Obligations.EveryCommandProducesOneResponse : Prop :=
  ∀ (c : Command) (s : State), ∃ (t : State) (r : Response) (status : Word) (data : List Word),
    runCommand c s = .next t ∧ t.out = s.out ++ [r] ∧ t.input = s.input ∧
    responseWords r = status :: data ∧ status.toNat ≤ 3 ∧
    (status ≠ 0 → data = []) ∧
    (∀ i, c = .legal i → status = 0 → data.length = okDataWords i) ∧
    (∀ h, c = .illegal h → status = 2)

/-- R140, R146: the three faults, their codes, and when each is raised; a command reports at most one, and one that
faults writes no state. -/
def Obligations.FaultsRaisedExactlyWhenStated : Prop :=
  ∀ (c : Command) (s : State), ∃ (t : State) (r : Response),
    runCommand c s = .next t ∧ t.out = s.out ++ [r] ∧
    (r = .fault .illegalCommand ↔ ∃ h, c = .illegal h) ∧
    (r = .fault .uninitializedGenerator ↔ isDrawCommand c = true ∧ s.init = false) ∧
    (r = .fault .cursorOutOfRange ↔ isDrawCommand c = true ∧ s.init = true ∧ 24 < s.cur.toNat) ∧
    (∀ trap, r = .fault trap →
      t = { s with out := s.out ++ [.fault trap] } ∧ responseWords r = [trapStatus trap]) ∧
    trapStatus .uninitializedGenerator = 0x00000001 ∧ trapStatus .illegalCommand = 0x00000002 ∧
    trapStatus .cursorOutOfRange = 0x00000003

/-- R147: a command that faults has no effect but its response. -/
def Obligations.FaultingCommandChangesNoState : Prop :=
  ∀ (c : Command) (s t : State) (trap : Trap),
    runCommand c s = .next t → t.out = s.out ++ [.fault trap] →
    t = { s with out := s.out ++ [.fault trap] } ∧ responseWords (.fault trap) = [trapStatus trap]

/-- R21, the frame of every command: what each leaves as it was. The block has no byte of memory outside `W`, `CUR` and
`INIT`. -/
def Obligations.CommandsWriteOnlyWhatTheTableLists : Prop :=
  ∀ (c : Command) (s t : State), runCommand c s = .next t →
    t.input = s.input ∧
    (isReadOnlyCommand c = true → t.w = s.w ∧ t.cur = s.cur ∧ t.init = s.init) ∧
    (isDrawCommand c = true → t.init = s.init ∧
      (s.cur.toNat ≠ 24 → t.w = s.w) ∧
      (s.init = false ∨ 24 < s.cur.toNat → t.w = s.w ∧ t.cur = s.cur)) ∧
    (∃ r, t.out = s.out ++ [r])

/-- R21, R91: a draw that does not twist reads one word of the file, `W[CUR + 1]`: two blocks that agree on it, on the
cursor and on the flag give the same response and the same cursor. -/
def Obligations.DrawReadsOnlyTheWordItReturns : Prop :=
  ∀ (i : Instr) (s t : State) (hc : s.cur.toNat < 24),
    isDraw i = true → t.cur = s.cur → t.init = s.init →
    t.w[s.cur.toNat + 1] = s.w[s.cur.toNat + 1] →
    ∃ (s' t' : State) (r : Response), exec i s = .next s' ∧ exec i t = .next t' ∧
      s'.out = s.out ++ [r] ∧ t'.out = t.out ++ [r] ∧ s'.cur = t'.cur

/-! ## Seeding -/

/-- SEEDFILL (R90): `W[i] = seed_i` for every i, whatever the file held before. -/
def Obligations.SeedfillWritesTheSeedSequence : Prop :=
  ∀ (w : WordFile) (s : Word) (k : Fin 25), (seedfill w s)[k.val] = seedTerm s k.val

/-- SEED (R91): it completes from every state with every seed. -/
def Obligations.SeedCompletesFromEveryState : Prop :=
  ∀ (x : Word) (s : State),
    encode (.seed x) = [0x00000001, x] ∧
    ∃ t : State, exec (.seed x) s = .next t ∧
      (∀ k : Fin 25, t.w[k.val] = seedTerm x k.val) ∧
      t.cur = 24 ∧ t.init = true ∧ t.input = s.input ∧ t.out = s.out ++ [.ok []]

/-- R92, of the file SEEDFILL writes over any file: (a) the closed form of word k; (b) parity alternates, so that words of
even index have the parity of the seed and words of odd index the other; (c) the step of the running seed, which gives
word 1, is a bijection, and different seeds give different files; (d) no file is all zero; (e) the file of seed 0. The
last clause says that it is the file SEED leaves. -/
def Obligations.SeedSequenceProperties : Prop :=
  (∀ (w : WordFile) (s : Word) (k : Fin 25), (seedfill w s)[k.val] =
    BitVec.ofNat 32 (1313 ^ k.val * s.toNat + 88897 * ∑ j ∈ Finset.range k.val, 1313 ^ j)) ∧
  (∀ (w : WordFile) (s : Word) (k : Fin 24),
    (seedfill w s)[k.val + 1].getLsbD 0 = !(seedfill w s)[k.val].getLsbD 0) ∧
  (∀ (w : WordFile) (s : Word) (k : Fin 25),
    (seedfill w s)[k.val].getLsbD 0 = (s.getLsbD 0 ^^ decide (k.val % 2 = 1))) ∧
  Function.Bijective lcgNext ∧
  (∀ (w : WordFile) (s : Word), (seedfill w s)[0] = s ∧ (seedfill w s)[1] = lcgNext s) ∧
  (∀ (w v : WordFile) (s r : Word), s ≠ r → seedfill w s ≠ seedfill v r) ∧
  (∀ (w : WordFile) (s : Word), seedfill w s ≠ WordFile.zero) ∧
  (∀ w : WordFile, (seedfill w 0)[0] = 0x00000000 ∧ (seedfill w 0)[1] = 0x00015b41 ∧
    (seedfill w 0)[2] = 0x06f663a2) ∧
  (∀ (x : Word) (s : State), ∃ t : State, exec (.seed x) s = .next t ∧ t.w = seedfill s.w x)

/-- R93: two blocks that execute the same SEED from any states are in equal states and answer every further list of
commands equally; and GETSTATE straight after SEED returns the 25 terms and the cursor 24. -/
def Obligations.SeedingIsDeterministicAndVisible : Prop :=
  (∀ (x : Word) (cs : List Command) (s t : State), ∃ (s' t' : State) (rs : List Response),
    runCommands (.legal (.seed x) :: cs) s = .next s' ∧ runCommands (.legal (.seed x) :: cs) t = .next t' ∧
    s'.sameBlock t' ∧ s'.out = s.out ++ rs ∧ t'.out = t.out ++ rs) ∧
  (∀ (x : Word) (s : State), ∃ t : State,
    runCommands [.legal (.seed x), .legal .getstate] s = .next t ∧
    t.out = s.out ++ [.ok [], .ok ((List.range 25).map (seedTerm x) ++ [24])])

/-! ## Twist -/

/-- TWIST (R100, R101, R102): words 0 to 17 read the OLD word seven places on, words 18 to 24 the NEW word eighteen
places back; the word being replaced is read before it is written. -/
def Obligations.TwistRegeneratesInPlace : Prop :=
  ∀ w : WordFile,
    (∀ i : Fin 18, (twist w)[i.val] =
      w[i.val + 7] ^^^ (w[i.val] >>> 1) ^^^ (if w[i.val] &&& 1 = 1 then 0x8ebfd028 else 0x00000000)) ∧
    (∀ j : Fin 7, (twist w)[j.val + 18] =
      (twist w)[j.val] ^^^ (w[j.val + 18] >>> 1) ^^^
        (if w[j.val + 18] &&& 1 = 1 then 0x8ebfd028 else 0x00000000))

/-- R104: the all-zero file is a fixed point; the pass is linear over GF(2); bit 31 of a new word is bit 31 of its
feedback word, flipped when the replaced word is odd; the all-ones file. -/
def Obligations.TwistIsLinear : Prop :=
  twist WordFile.zero = WordFile.zero ∧
  (∀ u v : WordFile, twist (Vector.zipWith (· ^^^ ·) u v) = Vector.zipWith (· ^^^ ·) (twist u) (twist v)) ∧
  (∀ f x : Word, (tw f x).getLsbD 31 = (f.getLsbD 31 ^^ x.getLsbD 0)) ∧
  (∀ k : Fin 25, (twist (Vector.replicate 25 0xffffffff))[k.val] =
    if k.val < 18 then 0x0ebfd028 else 0xffffffff)

/-- R103, R21: the word file changes only by SEED, by SETSTATE, and by a draw issued at cursor 24 on an initialized
block, which is the only case of TWIST and runs the whole pass. -/
def Obligations.TwistRunsOnlyInDrawAtCursor24 : Prop :=
  ∀ (c : Command) (s t : State), runCommand c s = .next t → t.w ≠ s.w →
    (∃ x, c = .legal (.seed x)) ∨
    (∃ ws cur, c = .legal (.setstate ws cur) ∧ t.w = ws) ∨
    (isDrawCommand c = true ∧ s.init = true ∧ s.cur = 24 ∧ t.w = twist s.w ∧ t.cur = 0)

/-- R116: a successful draw runs TWIST if and only if CUR = 24 before it; and after SEED, with draws, GETSTATE and illegal headers in any mixture, draw number k + 1 returns the temper of
word k mod 25 of the file twisted k / 25 + 1 times; the file changes only on draws 1, 26, 51, and so on. -/
def Obligations.TwistCadenceAfterSeed : Prop :=
  (∀ (d : Instr) (s : State), isDraw d = true → s.init = true → s.cur.toNat ≤ 24 →
    ∃ t : State, exec d s = .next t ∧ t.w = (if s.cur = 24 then twist s.w else s.w)) ∧
  ∀ (x : Word) (cs : List Command) (d : Instr) (s : State),
    (∀ c ∈ cs, isDrawCommand c = true ∨ isReadOnlyCommand c = true) → isDraw d = true →
    ∃ t u : State,
      runCommands (.legal (.seed x) :: cs) s = .next t ∧
      t.w = (if countDraws cs = 0 then seedFile x else twistPow (seedFile x) ((countDraws cs - 1) / 25 + 1)) ∧
      t.cur = (if countDraws cs = 0 then 24 else BitVec.ofNat 32 ((countDraws cs - 1) % 25)) ∧
      exec d t = .next u ∧
      u.w = twistPow (seedFile x) (countDraws cs / 25 + 1) ∧
      u.cur = BitVec.ofNat 32 (countDraws cs % 25) ∧
      u.out = t.out ++ [.ok (drawData d (temper
        ((twistPow (seedFile x) (countDraws cs / 25 + 1))[countDraws cs % 25]'(Nat.mod_lt _ (by decide)))))]

/-! ## Temper -/

/-- R119 (a), (b), (c): which bits each stage can change, and from which bit. -/
def Obligations.TemperStagesFlipOnlyMaskBits : Prop :=
  ∀ (x : Word) (k : Fin 32),
    (temperStage1 x).getLsbD k.val = (x.getLsbD k.val ^^
      (decide (k.val ∈ [8, 10, 13, 16, 17, 19, 20, 22, 24, 25, 27, 29]) && x.getLsbD (k.val - 7))) ∧
    (temper x).getLsbD k.val = ((temperStage1 x).getLsbD k.val ^^
      (decide (k.val ∈ [16, 17, 19, 23, 24, 25, 27, 28, 30, 31]) && (temperStage1 x).getLsbD (k.val - 15))) ∧
    (k.val < 8 → (temper x).getLsbD k.val = x.getLsbD k.val)

/-- R119 (d): TEMPER is linear over GF(2) and a bijection on the 32-bit words. -/
def Obligations.TemperIsLinearBijection : Prop :=
  (∀ x y : Word, temper (x ^^^ y) = temper x ^^^ temper y) ∧ Function.Bijective temper

/-! ## Draws -/

/-- NEXT (R112, with NEXTWORD of R111 and TEMPER of R110 written out): its completion and its two faults. -/
def Obligations.NextDrawsOneWord : Prop :=
  encode .next = [0x00000002] ∧
  (∀ s : State, s.init = true → s.cur.toNat ≤ 24 →
    let w' := if s.cur.toNat = 24 then twist s.w else s.w
    let c := (s.cur.toNat + 1) % 25
    let x := w'[c]'(Nat.mod_lt _ (by decide))
    let y1 := x ^^^ ((x <<< 7) &&& 0x2b5b2500)
    let y := y1 ^^^ ((y1 <<< 15) &&& 0xdb8b0000)
    exec .next s = .next { s with w := w', cur := BitVec.ofNat 32 c, out := s.out ++ [.ok [y]] }) ∧
  (∀ s : State, s.init = false →
    exec .next s = .next { s with out := s.out ++ [.fault .uninitializedGenerator] }) ∧
  (∀ s : State, s.init = true → 24 < s.cur.toNat →
    exec .next s = .next { s with out := s.out ++ [.fault .cursorOutOfRange] })

/-- NEXT31 (R113): the same draw, bit 31 of the tempered word cleared, no shift. -/
def Obligations.Next31DrawsMaskedWord : Prop :=
  encode .next31 = [0x00000003] ∧
  (∀ s : State, s.init = true → s.cur.toNat ≤ 24 →
    let w' := if s.cur.toNat = 24 then twist s.w else s.w
    let c := (s.cur.toNat + 1) % 25
    let x := w'[c]'(Nat.mod_lt _ (by decide))
    let y1 := x ^^^ ((x <<< 7) &&& 0x2b5b2500)
    let y := y1 ^^^ ((y1 <<< 15) &&& 0xdb8b0000)
    exec .next31 s =
      .next { s with w := w', cur := BitVec.ofNat 32 c, out := s.out ++ [.ok [BitVec.ofNat 32 (y.toNat % 2 ^ 31)]] }) ∧
  (∀ s : State, s.init = false →
    exec .next31 s = .next { s with out := s.out ++ [.fault .uninitializedGenerator] }) ∧
  (∀ s : State, s.init = true → 24 < s.cur.toNat →
    exec .next31 s = .next { s with out := s.out ++ [.fault .cursorOutOfRange] })

/-- NEXTF (R114): the same draw; the two data words are the low and the high half of the binary64 pattern whose value is
the tempered word times 2^-32 exactly. -/
def Obligations.NextfDrawsExactFraction : Prop :=
  encode .nextf = [0x00000004] ∧
  (∀ s : State, s.init = true → s.cur.toNat ≤ 24 →
    let w' := if s.cur.toNat = 24 then twist s.w else s.w
    let c := (s.cur.toNat + 1) % 25
    let x := w'[c]'(Nat.mod_lt _ (by decide))
    let y1 := x ^^^ ((x <<< 7) &&& 0x2b5b2500)
    let y := y1 ^^^ ((y1 <<< 15) &&& 0xdb8b0000)
    ∃ lo hi : Word,
      binary64Value (hi ++ lo) = some ((y.toNat : ℚ) / 2 ^ 32) ∧
      exec .nextf s = .next { s with w := w', cur := BitVec.ofNat 32 c, out := s.out ++ [.ok [lo, hi]] }) ∧
  (∀ s : State, s.init = false →
    exec .nextf s = .next { s with out := s.out ++ [.fault .uninitializedGenerator] }) ∧
  (∀ s : State, s.init = true → 24 < s.cur.toNat →
    exec .nextf s = .next { s with out := s.out ++ [.fault .cursorOutOfRange] })

/-- R141, R143: a draw that faults changes no state, and the next draw faults again the same way. Of R143 further: a draw
with INIT = 1 and a cursor in 0..24 does not fault; only a SETSTATE whose last payload word is above 24 takes the cursor
above 24, and only SEED, a SETSTATE with a cursor in 0..24, or reset takes it back. -/
def Obligations.FaultingDrawLeavesBlockAndFaultsAgain : Prop :=
  (∀ (i j : Instr) (s : State), isDraw i = true → isDraw j = true →
    (s.init = false → ∃ t : State, exec i s = .next t ∧ t.sameBlock s ∧
      responseWords (.fault .uninitializedGenerator) = [0x00000001] ∧
      t.out = s.out ++ [.fault .uninitializedGenerator] ∧
      exec j t = .next { t with out := t.out ++ [.fault .uninitializedGenerator] }) ∧
    (s.init = true → 24 < s.cur.toNat → ∃ t : State, exec i s = .next t ∧ t.sameBlock s ∧
      responseWords (.fault .cursorOutOfRange) = [0x00000003] ∧
      t.out = s.out ++ [.fault .cursorOutOfRange] ∧
      exec j t = .next { t with out := t.out ++ [.fault .cursorOutOfRange] })) ∧
  (∀ (i : Instr) (s : State), isDraw i = true → s.init = true → s.cur.toNat ≤ 24 →
    ∃ (t : State) (d : List Word), exec i s = .next t ∧ t.out = s.out ++ [.ok d]) ∧
  (∀ s t : State, step s = .next t → s.cur.toNat ≤ 24 → 24 < t.cur.toNat →
    ∃ (ws : WordFile) (c : Word) (rest : List HostEvent),
      fetch s.input = .command (.legal (.setstate ws c)) rest ∧ 24 < c.toNat) ∧
  (∀ s t : State, step s = .next t → 24 < s.cur.toNat → t.cur.toNat ≤ 24 →
    (∃ x rest, fetch s.input = .command (.legal (.seed x)) rest) ∨
    (∃ ws c rest, fetch s.input = .command (.legal (.setstate ws c)) rest ∧ c.toNat ≤ 24) ∨
    (∃ rest, fetch s.input = .reset rest))

/-- R113, R114: the three draws from equal states leave equal blocks, and their data are functions of the same word. -/
def Obligations.ThreeDrawsShareOneDraw : Prop :=
  ∀ (s t : State) (y : Word), exec .next s = .next t → t.out = s.out ++ [.ok [y]] →
    exec .next31 s = .next { t with out := s.out ++ [.ok [y &&& 0x7fffffff]] } ∧
    exec .nextf s =
      .next { t with out := s.out ++ [.ok [(f64 y).extractLsb' 0 32, (f64 y).extractLsb' 32 32]] }

/-- F64 (R115): the value is exactly y * 2^-32, so it lies in [0, 1); the sign bit is 0 and bits 20 to 0 are 0; for a
word that is not 0 the exponent field is 991 + p with 2^p ≤ y < 2^(p+1), and the fraction is (y - 2^p) * 2^(52-p). -/
def Obligations.F64EncodesExactValue : Prop :=
  f64 0 = 0 ∧
  ∀ y : Word,
    binary64Value (f64 y) = some ((y.toNat : ℚ) / 2 ^ 32) ∧
    (f64 y).getLsbD 63 = false ∧ (f64 y).extractLsb' 0 21 = 0 ∧
    (y ≠ 0 → ∃ p : Nat, 2 ^ p ≤ y.toNat ∧ y.toNat < 2 ^ (p + 1) ∧
      binary64Exponent (f64 y) = 991 + p ∧ binary64Fraction (f64 y) = (y.toNat - 2 ^ p) * 2 ^ (52 - p))

/-- R117: both range bounds, for every draw from every state. -/
def Obligations.DrawResultsStayInRange : Prop :=
  ∀ s t : State,
    (∀ d : Word, exec .next31 s = .next t → t.out = s.out ++ [.ok [d]] → d.toNat ≤ 0x7fffffff) ∧
    (∀ lo hi : Word, exec .nextf s = .next t → t.out = s.out ++ [.ok [lo, hi]] →
      ∃ v : ℚ, binary64Value (hi ++ lo) = some v ∧ 0 ≤ v ∧ v < 1)

/-! ## State transfer -/

/-- GETSTATE (R130, R74): it completes from every state, returns the 26 words and writes nothing. -/
def Obligations.GetstateReturnsTheStateBlock : Prop :=
  encode .getstate = [0x00000005] ∧
  ∀ s : State, ∃ d : List Word,
    exec .getstate s = .next { s with out := s.out ++ [.ok d] } ∧
    d.length = 26 ∧ (∀ k : Fin 25, d[k.val]? = some s.w[k.val]) ∧ d[25]? = some s.cur

/-- SETSTATE (R131): it completes from every state with every payload `P[0..25]`, checks nothing and marks the block
initialized. -/
def Obligations.SetstateInstallsThePayload : Prop :=
  ∀ (s : State) (P : Vector Word 26), ∃ (i : Instr) (t : State),
    decode (0x00000006 :: P.toList) = some (.legal i, []) ∧ encode i = 0x00000006 :: P.toList ∧
    exec i s = .next t ∧
    (∀ k : Fin 25, t.w[k.val] = P[k.val]) ∧ t.cur = P[25] ∧ t.init = true ∧
    t.input = s.input ∧ t.out = s.out ++ [.ok []]

/-- SETSTATE as an instruction, for every operand: the whole next state (R131, R21). -/
def Obligations.SetstateCompletesFromEveryState : Prop :=
  ∀ (ws : WordFile) (c : Word) (s : State), ∃ t : State,
    exec (.setstate ws c) s = .next t ∧ t.w = ws ∧ t.cur = c ∧ t.init = true ∧
    t.input = s.input ∧ t.out = s.out ++ [.ok []] ∧
    (24 < c.toNat → ∀ d, isDraw d = true →
      exec d t = .next { t with out := t.out ++ [.fault .cursorOutOfRange] })

/-- R132: what GETSTATE returned, sent back by the very next SETSTATE, leaves W and CUR unchanged, and the whole block
exactly when it was Seeded. -/
def Obligations.SnapshotRoundTrip : Prop :=
  ∀ s : State, ∃ (d : List Word) (i : Instr) (t : State),
    exec .getstate s = .next { s with out := s.out ++ [.ok d] } ∧
    decode (0x00000006 :: d) = some (.legal i, []) ∧
    exec i { s with out := s.out ++ [.ok d] } = .next t ∧
    t.w = s.w ∧ t.cur = s.cur ∧ t.init = true ∧ (t.sameBlock s ↔ s.init = true)

/-- R132, the general form: a snapshot of a Seeded block, installed in any block, makes every further command answer as
it would have answered from the snapshot on. -/
def Obligations.InstalledSnapshotReplaysTheStream : Prop :=
  ∀ (s u : State) (cs : List Command), s.init = true →
    ∃ (t v : State) (rs : List Response),
      runCommands cs s = .next t ∧ runCommands (.legal (.setstate s.w s.cur) :: cs) u = .next v ∧
      t.out = s.out ++ rs ∧ v.out = u.out ++ (.ok [] :: rs) ∧ t.sameBlock v

/-- R27: two blocks with equal W, CUR and INIT give equal responses to equal command sequences, and stay equal. -/
def Obligations.EqualBlocksAnswerEqually : Prop :=
  ∀ (cs : List Command) (s t : State), s.sameBlock t →
    ∃ (s' t' : State) (rs : List Response),
      runCommands cs s = .next s' ∧ runCommands cs t = .next t' ∧
      s'.out = s.out ++ rs ∧ t'.out = t.out ++ rs ∧ rs.length = cs.length ∧ s'.sameBlock t'

/-- R46: any number of GETSTATE return the same words and leave the block; SEED and SETSTATE executed twice in a row
leave the block that executing them once leaves. -/
def Obligations.GetstateSeedSetstateAreIdempotent : Prop :=
  (∀ (n : Nat) (s : State), ∃ t : State,
    runCommands (List.replicate n (.legal .getstate)) s = .next t ∧ t.sameBlock s ∧
    t.out = s.out ++ List.replicate n (.ok (memReadBlock s))) ∧
  (∀ (x : Word) (s : State), ∃ t u : State,
    exec (.seed x) s = .next t ∧ exec (.seed x) t = .next u ∧ u.sameBlock t) ∧
  (∀ (ws : WordFile) (c : Word) (s : State), ∃ t u : State,
    exec (.setstate ws c) s = .next t ∧ exec (.setstate ws c) t = .next u ∧ u.sameBlock t)

/-! ## Host-side functions the spec records -/

/-- R133, character by character. A word is 10 characters: `0`, `x`, and 8 lower-case hexadecimal digits, the most
significant first. The dump is 286 characters: the cursor in places 0 to 9, a newline in place 10, word k in the ten
places from 11 + 11 k, one space in place 21 + 11 k between word k and word k + 1, and a newline in place 285, the last.
No two snapshots have the same dump. -/
def Obligations.DumpShowsTheWholeSnapshot : Prop :=
  (∀ w : Word, (renderWord w).length = 10 ∧ (renderWord w).take 2 = ['0', 'x'] ∧
    ∀ j : Fin 8, (renderWord w)[2 + j.val]? =
      ['0', '1', '2', '3', '4', '5', '6', '7', '8', '9', 'a', 'b', 'c', 'd', 'e', 'f'][
        (w.extractLsb' (28 - 4 * j.val) 4).toNat]?) ∧
  (∀ (w : WordFile) (c : Word),
    (renderDump w c).length = 286 ∧
    (renderDump w c).take 10 = renderWord c ∧ (renderDump w c)[10]? = some '\n' ∧
    (∀ k : Fin 25, ((renderDump w c).drop (11 + 11 * k.val)).take 10 = renderWord w[k.val]) ∧
    (∀ k : Fin 24, (renderDump w c)[21 + 11 * k.val]? = some ' ') ∧
    (renderDump w c)[285]? = some '\n') ∧
  (∀ (w v : WordFile) (c d : Word), renderDump w c = renderDump v d → w = v ∧ c = d)

/-- R43: a host that writes and reads a snapshot in ONE byte order gets the snapshot back, whichever order it is; the
host's own open parameter is one of them. -/
def Obligations.SnapshotBytesReadBack : Prop :=
  (∀ (order : ByteOrder) (ws : List Word), snapshotOfBytes order (snapshotBytes order ws) = ws) ∧
  (∀ ws : List Word, restoreSnapshot (persistSnapshot ws) = ws)

/-- R80: a command list written out in the syntax of R80, one command per line with its operands in hexadecimal, is
assembled into exactly the words of those commands, whatever the commands and their operands are. -/
def Obligations.AssemblerEncodesEveryListing : Prop :=
  ∀ cs : List Command, assemble (listingText cs) = some (cs.flatMap encodeCommand)
end

