-- ==== Sys2Proof/Laws/Decode.lean ====
section
/-! SUPPORT. What each part of the decoder can do: selecting a row of the opcode map, and taking a payload. -/

namespace Sys2Proof

/-- The mask of every row keeps the whole header word. -/
theorem word_and_allOnes (h : Word) : h &&& 0xffffffff#32 = h := by
  have ones : ∀ k : Fin 32, (0xffffffff#32).getLsbD k.val = true := by decide
  apply BitVec.eq_of_getLsbD_eq
  intro k hk
  rw [BitVec.getLsbD_and, ones ⟨k, hk⟩, Bool.and_true]

/-- A header word selects no row exactly when it is none of the six. -/
theorem selectRow_eq_none {h : Word} : selectRow h = none ↔ h ∉ ([1, 2, 3, 4, 5, 6] : List Word) := by
  simp [selectRow, opcodeTable, word_and_allOnes]

/-- A header word that selects a row is that row's pattern. -/
theorem selectRow_eq_some {h : Word} {r : OpcodeRow} (e : selectRow h = some r) :
    r ∈ opcodeTable ∧ h = r.pattern := by
  have hm := List.mem_of_find?_eq_some e
  have hp := List.find?_some e
  refine ⟨hm, ?_⟩
  simp only [opcodeTable, List.mem_cons, List.not_mem_nil, or_false] at hm
  rcases hm with rfl | rfl | rfl | rfl | rfl | rfl <;> simpa [word_and_allOnes] using hp

/-- A payload is the first words of the stream, if there are enough of them. -/
theorem takePayload_append {n : Nat} (p : Vector Word n) (rest : List Word) :
    takePayload n (p.toList ++ rest) = some (p, rest) := by
  unfold takePayload
  have h : n ≤ (p.toList ++ rest).length := by simp
  rw [dif_pos h]
  have hl : p.toList.length = n := by simp
  have ht : (p.toList ++ rest).take n = p.toList := by
    rw [List.take_append_of_le_length (by omega), List.take_of_length_le (by omega)]
  have hd : (p.toList ++ rest).drop n = rest := by
    rw [List.drop_append_of_le_length (by omega), List.drop_of_length_le (by omega)]; rfl
  simp only [ht, hd, Option.some.injEq, Prod.mk.injEq, and_true]
  exact Vector.toArray_inj.mp (by simp [Vector.toList])

/-- No payload is taken exactly while the stream is too short. -/
theorem takePayload_eq_none {n : Nat} {ws : List Word} : takePayload n ws = none ↔ ws.length < n := by
  unfold takePayload
  split <;> simp_all

/-- What a payload that was taken says of the stream. -/
theorem takePayload_eq_some {n : Nat} {ws : List Word} {p : Vector Word n} {rest : List Word}
    (h : takePayload n ws = some (p, rest)) : ws = p.toList ++ rest := by
  unfold takePayload at h
  split at h
  · simp only [Option.some.injEq, Prod.mk.injEq] at h
    obtain ⟨rfl, rfl⟩ := h
    simp [Vector.toList]
  · cases h

end Sys2Proof
end

