-- ==== Sys2Proof/Laws/Fetch.lean ====
section
/-! SUPPORT. The words before a reset event. -/

namespace Sys2Proof.Machine

/-- Words put before any events are put before the words that were there, and the reset event stays where it was. -/
theorem splitAtReset_wordEvents_append (ws : List Word) (es : List HostEvent) :
    splitAtReset (wordEvents ws ++ es) = (ws ++ (splitAtReset es).1, (splitAtReset es).2) := by
  induction ws with
  | nil => simp [wordEvents]
  | cons w ws ih => simp_all [wordEvents, splitAtReset]

/-- Splitting loses nothing. -/
theorem rejoin_splitAtReset (es : List HostEvent) :
    rejoin (splitAtReset es).1 (splitAtReset es).2 = es := by
  induction es with
  | nil => simp [splitAtReset, rejoin, wordEvents]
  | cons e es ih =>
    cases e with
    | reset => simp [splitAtReset, rejoin, wordEvents]
    | word w =>
      cases h : (splitAtReset es).2 <;> simp_all [splitAtReset, rejoin, wordEvents]

/-- Word events of a concatenation. -/
theorem wordEvents_append (ws vs : List Word) : wordEvents (ws ++ vs) = wordEvents ws ++ wordEvents vs := by
  simp [wordEvents]

end Sys2Proof.Machine
end

