-- ==== Sys2Proof/Laws/Loop.lean ====
section
/-! SUPPORT. The induction over a loop with a fixed number of turns, packaged once for SEEDFILL and TWIST. -/

namespace Sys2Proof

/-- A property that holds before the first turn, and that turn k carries from k to k + 1, holds after the last. -/
theorem foldl_finRange_invariant {α : Type} {n : Nat} (f : α → Fin n → α) (P : Nat → α → Prop)
    (a : α) (h0 : P 0 a) (hs : ∀ (k : Nat) (hk : k < n) (b : α), P k b → P (k + 1) (f b ⟨k, hk⟩)) :
    P n ((List.finRange n).foldl f a) := by
  induction n with
  | zero => simpa using h0
  | succ n ih =>
    rw [List.finRange_succ_last, List.foldl_append, List.foldl_map]
    exact hs n (by omega) _ (ih (fun b i => f b i.castSucc) fun k hk b hb => hs k (by omega) b hb)

end Sys2Proof
end

