-- ==== Sys2Proof/Laws/State.lean ====
section
/-! SUPPORT. One lemma per field per update of the state, so that no proof unfolds a record update. -/

namespace Sys2Proof.Machine

@[simp] theorem State.setW_w (s : State) (v : WordFile) : (s.setW v).w = v := rfl
@[simp] theorem State.setW_cur (s : State) (v : WordFile) : (s.setW v).cur = s.cur := rfl
@[simp] theorem State.setW_init (s : State) (v : WordFile) : (s.setW v).init = s.init := rfl
@[simp] theorem State.setW_input (s : State) (v : WordFile) : (s.setW v).input = s.input := rfl
@[simp] theorem State.setW_out (s : State) (v : WordFile) : (s.setW v).out = s.out := rfl

@[simp] theorem State.setCur_w (s : State) (v : Word) : (s.setCur v).w = s.w := rfl
@[simp] theorem State.setCur_cur (s : State) (v : Word) : (s.setCur v).cur = v := rfl
@[simp] theorem State.setCur_init (s : State) (v : Word) : (s.setCur v).init = s.init := rfl
@[simp] theorem State.setCur_input (s : State) (v : Word) : (s.setCur v).input = s.input := rfl
@[simp] theorem State.setCur_out (s : State) (v : Word) : (s.setCur v).out = s.out := rfl

@[simp] theorem State.setInit_w (s : State) (b : Bool) : (s.setInit b).w = s.w := rfl
@[simp] theorem State.setInit_cur (s : State) (b : Bool) : (s.setInit b).cur = s.cur := rfl
@[simp] theorem State.setInit_init (s : State) (b : Bool) : (s.setInit b).init = b := rfl
@[simp] theorem State.setInit_input (s : State) (b : Bool) : (s.setInit b).input = s.input := rfl
@[simp] theorem State.setInit_out (s : State) (b : Bool) : (s.setInit b).out = s.out := rfl

@[simp] theorem State.setInput_w (s : State) (es : List HostEvent) : (s.setInput es).w = s.w := rfl
@[simp] theorem State.setInput_cur (s : State) (es : List HostEvent) : (s.setInput es).cur = s.cur := rfl
@[simp] theorem State.setInput_init (s : State) (es : List HostEvent) : (s.setInput es).init = s.init := rfl
@[simp] theorem State.setInput_input (s : State) (es : List HostEvent) : (s.setInput es).input = es := rfl
@[simp] theorem State.setInput_out (s : State) (es : List HostEvent) : (s.setInput es).out = s.out := rfl

@[simp] theorem State.emit_w (s : State) (r : Response) : (s.emit r).w = s.w := rfl
@[simp] theorem State.emit_cur (s : State) (r : Response) : (s.emit r).cur = s.cur := rfl
@[simp] theorem State.emit_init (s : State) (r : Response) : (s.emit r).init = s.init := rfl
@[simp] theorem State.emit_input (s : State) (r : Response) : (s.emit r).input = s.input := rfl
@[simp] theorem State.emit_out (s : State) (r : Response) : (s.emit r).out = s.out ++ [r] := rfl

@[simp] theorem markInitialized_w (s : State) : (markInitialized s).w = s.w := rfl
@[simp] theorem markInitialized_cur (s : State) : (markInitialized s).cur = s.cur := rfl
@[simp] theorem markInitialized_init (s : State) : (markInitialized s).init = true := rfl
@[simp] theorem markInitialized_input (s : State) : (markInitialized s).input = s.input := rfl
@[simp] theorem markInitialized_out (s : State) : (markInitialized s).out = s.out := rfl

@[simp] theorem State.reset_w : State.reset.w = WordFile.zero := rfl
@[simp] theorem State.reset_cur : State.reset.cur = 0 := rfl
@[simp] theorem State.reset_init : State.reset.init = false := rfl
@[simp] theorem State.reset_input : State.reset.input = [] := rfl
@[simp] theorem State.reset_out : State.reset.out = [] := rfl

/-- Two states are equal when their five fields are. -/
theorem State.eq_of_fields {s t : State} (hw : s.w = t.w) (hc : s.cur = t.cur) (hi : s.init = t.init)
    (hin : s.input = t.input) (ho : s.out = t.out) : s = t := by
  cases s; cases t; simp_all

end Sys2Proof.Machine
end

