-- ==== Sys2Proof/Laws/Ops.lean ====
section
/-! SUPPORT. What each shared operation can do, said once: ending a command, taking a fault, a draw, running a command,
and a step. -/

namespace Sys2Proof.Machine

/-- Ending a command normally appends one OK response and changes nothing else. -/
theorem respond_eq (s : State) (data : List Word) :
    respond s data = .next { s with out := s.out ++ [.ok data] } := rfl

/-- Taking a fault appends one faulting response and changes nothing else. -/
theorem raise_eq (t : Trap) (s : State) :
    raise t s = .next { s with out := s.out ++ [.fault t] } := rfl

/-- The reset event installs the reset block and touches neither stream. -/
theorem takeReset_eq (s : State) :
    takeReset s = .next { s with w := WordFile.zero, cur := 0, init := false } := rfl

/-- A draw on an uninitialized block takes its fault. -/
theorem drawRespond_of_uninit (data : Word → List Word) {s : State} (h : s.init = false) :
    drawRespond data s = raise .uninitializedGenerator s := by
  simp [drawRespond, nextWord, h]

/-- A draw on an initialized block with a cursor above 24 takes its fault. -/
theorem drawRespond_of_cursor (data : Word → List Word) {s : State} (h : s.init = true)
    (hc : 24 < s.cur.toNat) : drawRespond data s = raise .cursorOutOfRange s := by
  simp [drawRespond, nextWord, h, hc]

/-- A draw at cursor 24 twists the whole file, wraps the cursor to 0 and returns the new word 0. -/
theorem drawRespond_of_twist (data : Word → List Word) {s : State} (h : s.init = true)
    (hc : s.cur.toNat = 24) :
    drawRespond data s =
      .next { s with w := twist s.w, cur := 0, out := s.out ++ [.ok (data (temper (twist s.w)[0]))] } := by
  simp [drawRespond, nextWord, h, hc, respond, State.emit, State.setW, State.setCur]

/-- A draw below cursor 24 advances the cursor by one and returns the word there, the file unchanged. -/
theorem drawRespond_of_plain (data : Word → List Word) {s : State} (h : s.init = true)
    (hc : s.cur.toNat < 24) :
    drawRespond data s =
      .next { s with cur := s.cur + 1, out := s.out ++ [.ok (data (temper s.w[s.cur.toNat + 1]))] } := by
  have h1 : ¬ 24 < s.cur.toNat := by omega
  have h2 : ¬ s.cur.toNat = 24 := by omega
  simp [drawRespond, nextWord, h, h1, h2, respond, State.emit, State.setCur]

/-- What a draw can do: its two faults, the twisting draw, and the plain draw. -/
theorem drawRespond_cases (data : Word → List Word) (s : State) :
    (s.init = false ∧ drawRespond data s = raise .uninitializedGenerator s) ∨
    (s.init = true ∧ 24 < s.cur.toNat ∧ drawRespond data s = raise .cursorOutOfRange s) ∨
    (s.init = true ∧ s.cur.toNat = 24 ∧ drawRespond data s =
      .next { s with w := twist s.w, cur := 0, out := s.out ++ [.ok (data (temper (twist s.w)[0]))] }) ∨
    (∃ _ : s.cur.toNat < 24, s.init = true ∧ drawRespond data s =
      .next { s with cur := s.cur + 1, out := s.out ++ [.ok (data (temper s.w[s.cur.toNat + 1]))] }) := by
  by_cases h : s.init = false
  · exact .inl ⟨h, drawRespond_of_uninit data h⟩
  · have h : s.init = true := by simpa using h
    rcases Nat.lt_trichotomy s.cur.toNat 24 with hc | hc | hc
    · exact .inr (.inr (.inr ⟨hc, h, drawRespond_of_plain data h hc⟩))
    · exact .inr (.inr (.inl ⟨h, hc, drawRespond_of_twist data h hc⟩))
    · exact .inr (.inl ⟨h, hc, drawRespond_of_cursor data h hc⟩)

/-- SEED's whole next state. -/
theorem exec_seed (x : Word) (s : State) :
    exec (.seed x) s =
      .next { s with w := seedfill s.w x, cur := 24, init := true, out := s.out ++ [.ok []] } := by
  simp only [exec, execSeed, respond, State.emit, markInitialized, State.setInit, State.setCur, State.setW, curSeeded]

/-- NEXT is the shared draw with its own data word. -/
theorem exec_next (s : State) : exec .next s = drawRespond nextData s := rfl

/-- NEXT31 is the shared draw with its own data word. -/
theorem exec_next31 (s : State) : exec .next31 s = drawRespond next31Data s := rfl

/-- NEXTF is the shared draw with its own two data words. -/
theorem exec_nextf (s : State) : exec .nextf s = drawRespond nextfData s := rfl

/-- GETSTATE's whole next state. -/
theorem exec_getstate (s : State) :
    exec .getstate s = .next { s with out := s.out ++ [.ok (memReadBlock s)] } := rfl

/-- SETSTATE's whole next state. -/
theorem exec_setstate (ws : WordFile) (c : Word) (s : State) :
    exec (.setstate ws c) s =
      .next { s with w := ws, cur := c, init := true, out := s.out ++ [.ok []] } := rfl

/-- An illegal header's whole next state. -/
theorem runCommand_illegal (h : Word) (s : State) :
    runCommand (.illegal h) s = .next { s with out := s.out ++ [.fault .illegalCommand] } := rfl

/-- A legal command runs as its instruction. -/
theorem runCommand_legal (i : Instr) (s : State) : runCommand (.legal i) s = exec i s := rfl

/-- What a step can do: run a fetched command, take a reset event, or wait. -/
theorem step_cases (s : State) :
    (∃ c rest, fetch s.input = .command c rest ∧ step s = runCommand c { s with input := rest }) ∨
    (∃ rest, fetch s.input = .reset rest ∧
      step s = .next { s with w := WordFile.zero, cur := 0, init := false, input := rest }) ∨
    (fetch s.input = .waiting ∧ step s = .next s) := by
  cases h : fetch s.input with
  | command c rest => exact .inl ⟨c, rest, rfl, by simp [step, h, State.setInput]⟩
  | reset rest => exact .inr (.inl ⟨rest, rfl, by simp [step, h, takeReset_eq, State.setInput]⟩)
  | waiting => exact .inr (.inr ⟨rfl, by simp [step, h, awaitWords]⟩)

end Sys2Proof.Machine
end

