-- ==== Sys2Proof/Laws/PerInstr.lean ====
section
/-! SUPPORT. Laws of every command as syntax, one lemma per constructor. -/

namespace Sys2Proof.Laws.EncodedLength

/-- The words of a command are one legal command for the check of Sys2Proof/WellFormed.lean, and there are as many as
its header alone says (R68). -/
def Statement (i : Instr) : Prop :=
  commandWordsWellFormed (encode i) = true ∧ (encode i).length = commandLength (encodeHeader i)

theorem seed (s : Word) : Statement (.seed s) := by
  refine ⟨by simp [commandWordsWellFormed, encode, encodeHeader, encodePayload, headerPayloadWords,
    headerReservedZero, headerOpcodeKnown], ?_⟩
  simp only [encode, encodeHeader, encodePayload, List.length_cons, List.length_nil]
  decide

theorem next : Statement .next := by
  exact ⟨by decide, by decide⟩

theorem next31 : Statement .next31 := by
  exact ⟨by decide, by decide⟩

theorem nextf : Statement .nextf := by
  exact ⟨by decide, by decide⟩

theorem getstate : Statement .getstate := by
  exact ⟨by decide, by decide⟩

theorem setstate (ws : WordFile) (c : Word) : Statement (.setstate ws c) := by
  refine ⟨?_, ?_⟩
  · simp [commandWordsWellFormed, encode, encodeHeader, encodePayload, headerPayloadWords,
      headerReservedZero, headerOpcodeKnown]
  · simp only [encode, encodeHeader, encodePayload, List.length_cons, List.length_append,
      Vector.length_toList, List.length_nil]
    decide

end Sys2Proof.Laws.EncodedLength
end

