-- ==== Sys2Proof/Laws/Run.lean ====
section
/-! SUPPORT. What running one command does to the block and to the streams, said once for every command. -/

namespace Sys2Proof.Machine

/-- A next state is one state. (Cite this, or rewrite with `Host.Outcome.next.injEq`, where `cases` on the equation
would evaluate the whole state.) -/
theorem next_inj {s t : State} (h : (.next s : Host.Outcome State Fault Refusal) = .next t) : s = t := by
  simpa only [Host.Outcome.next.injEq] using h

/-- The three draw commands are the shared draw, each with its own data words. -/
theorem exec_draw {i : Instr} (h : isDraw i = true) (s : State) : exec i s = drawRespond (drawData i) s := by
  cases i <;> simp only [isDraw, Bool.false_eq_true] at h <;> rfl

/-- Running a command answers a next state with one more response and the same command stream. -/
theorem runCommand_next (c : Command) (s : State) :
    ∃ t r, runCommand c s = .next t ∧ t.input = s.input ∧ t.out = s.out ++ [r] := by
  cases c with
  | illegal h => exact ⟨_, _, runCommand_illegal h s, rfl, rfl⟩
  | legal i =>
    cases i with
    | seed x => exact ⟨_, _, exec_seed x s, rfl, rfl⟩
    | getstate => exact ⟨_, _, exec_getstate s, rfl, rfl⟩
    | setstate w c => exact ⟨_, _, exec_setstate w c s, rfl, rfl⟩
    | _ =>
      rw [runCommand_legal, exec_draw rfl]
      rcases drawRespond_cases _ s with ⟨_, e⟩ | ⟨_, _, e⟩ | ⟨_, _, e⟩ | ⟨_, _, e⟩ <;>
        rw [e] <;> exact ⟨_, _, rfl, rfl, rfl⟩

/-- What running a command does to the block: nothing; the seeding; the snapshot; a draw with a twist; a plain draw. -/
theorem runCommand_block {c : Command} {s t : State} (h : runCommand c s = .next t) :
    (t.w = s.w ∧ t.cur = s.cur ∧ t.init = s.init) ∨
    (∃ x, c = .legal (.seed x) ∧ t.w = seedfill s.w x ∧ t.cur = 24 ∧ t.init = true) ∨
    (∃ w cur, c = .legal (.setstate w cur) ∧ t.w = w ∧ t.cur = cur ∧ t.init = true) ∨
    (isDrawCommand c = true ∧ s.init = true ∧ t.init = true ∧ s.cur.toNat = 24 ∧ t.w = twist s.w ∧ t.cur = 0) ∨
    (isDrawCommand c = true ∧ s.init = true ∧ t.init = true ∧ s.cur.toNat < 24 ∧ t.w = s.w ∧ t.cur = s.cur + 1) := by
  cases c with
  | illegal g => cases next_inj ((runCommand_illegal g s).symm.trans h); exact .inl ⟨rfl, rfl, rfl⟩
  | legal i =>
    cases i with
    | seed x => obtain rfl := next_inj ((exec_seed x s).symm.trans h); exact .inr (.inl ⟨x, rfl, rfl, rfl, rfl⟩)
    | getstate => obtain rfl := next_inj ((exec_getstate s).symm.trans h); exact .inl ⟨rfl, rfl, rfl⟩
    | setstate w c =>
      obtain rfl := next_inj ((exec_setstate w c s).symm.trans h)
      exact .inr (.inr (.inl ⟨w, c, rfl, rfl, rfl, rfl⟩))
    | _ =>
      rw [runCommand_legal, exec_draw rfl] at h
      rcases drawRespond_cases _ s with ⟨_, e⟩ | ⟨_, _, e⟩ | ⟨hi, hc, e⟩ | ⟨hc, hi, e⟩ <;> rw [e] at h
      · obtain rfl := next_inj h; exact .inl ⟨rfl, rfl, rfl⟩
      · obtain rfl := next_inj h; exact .inl ⟨rfl, rfl, rfl⟩
      · obtain rfl := next_inj h; exact .inr (.inr (.inr (.inl ⟨rfl, hi, hi, hc, rfl, rfl⟩)))
      · obtain rfl := next_inj h; exact .inr (.inr (.inr (.inr ⟨rfl, hi, hi, hc, rfl, rfl⟩)))

end Sys2Proof.Machine
end

