-- ==== Sys2Proof/Tests/Slice0.lean ====
section
/-! SUPPORT. Small tests: the smoke tests of well-formedness, words written out from the encodings of spec file 30, one
step each on values of spec file 95, and a witness for the hypotheses of every statement that has some. -/

namespace Sys2Proof.Tests

open Sys2Proof.Machine

/-- The next state of an outcome, if it is one. -/
def nextOf (o : Host.Outcome State Fault Refusal) : Option State :=
  match o with
  | .next s => some s
  | .fault _ => none
  | .refused _ => none

theorem eq_next_of_nextOf {o : Host.Outcome State Fault Refusal} {t : State} (h : nextOf o = some t) :
    o = .next t := by
  cases o with
  | next s => simpa [nextOf] using h
  | fault f => cases f
  | refused r => cases h

/-- `W[k] = k + 1`, the file of program P4 and vector V-T7. -/
def countFile : WordFile := Vector.ofFn fun k => BitVec.ofNat 32 (k.val + 1)

/-- A block with the file of P4, a cursor and a flag, and words on its command stream. -/
def block (cur : Word) (init : Bool) (ws : List Word) : State :=
  { w := countFile, cur := cur, init := init, input := wordEvents ws, out := [] }

/-- The response stream after one step. -/
def stepWords (s : State) : Option (List Word) := (nextOf (step s)).map responseStream

/-- The response stream after the instruction. -/
def execWords (i : Instr) (s : State) : Option (List Word) := (nextOf (exec i s)).map responseStream

/-! ## Well-formedness: an ill-formed term for each check -/

theorem test_wellFormed_accepts_seed : commandWordsWellFormed [0x00000001, 0xffffffff] = true := by decide
theorem test_wellFormed_refuses_no_header : commandWordsWellFormed [] = false := by decide
theorem test_wellFormed_refuses_reserved_bits : commandWordsWellFormed [0x00000102] = false := by decide
theorem test_wellFormed_refuses_opcode_zero : commandWordsWellFormed [0x00000000] = false := by decide
theorem test_wellFormed_refuses_opcode_seven : commandWordsWellFormed [0x00000007] = false := by decide
theorem test_wellFormed_refuses_missing_payload : commandWordsWellFormed [0x00000001] = false := by decide
theorem test_wellFormed_refuses_surplus_payload : commandWordsWellFormed [0x00000002, 0] = false := by decide

/-! ## Words written out from R66 and R75 -/

theorem test_decode_seed :
    decode [0x00000001, 0x12345678, 0x00000002] = some (.legal (.seed 0x12345678), [0x00000002]) := by decide
theorem test_decode_next : decode [0x00000002] = some (.legal .next, []) := by decide
theorem test_decode_next31 : decode [0x00000003] = some (.legal .next31, []) := by decide
theorem test_decode_nextf : decode [0x00000004] = some (.legal .nextf, []) := by decide
theorem test_decode_getstate : decode [0x00000005] = some (.legal .getstate, []) := by decide
theorem test_decode_setstate :
    decode [0x00000006, 1, 2, 3, 4, 5, 6, 7, 8, 9, 10, 11, 12, 13, 14, 15, 16, 17, 18, 19, 20, 21, 22, 23, 24, 25,
      0xffffffff] = some (.legal (.setstate countFile 0xffffffff), []) := by decide
theorem test_decode_illegal_reserved :
    decode [0x80000002, 1] = some (.illegal 0x80000002, [1]) := by decide
theorem test_decode_incomplete_seed : decode [0x00000001] = none := by decide
theorem test_decodeTableWord_seed : decodeTableWord 64 0xdeadbeef00000001 = some (.seed 0xdeadbeef) := by decide
theorem test_decodeTableWord_setstate : decodeTableWord 32 6 = some (.setstate WordFile.zero 0) := by decide
theorem test_decodeTableWord_illegal : decodeTableWord 32 7 = none := by decide
theorem test_withFetchWord_runs_seed :
    (nextOf (step (State.reset.withFetchWord 64 0x500000001))).map (fun t => (t.w[0], t.cur, t.init, t.input)) =
      some (5, 24, true, []) := by decide
theorem test_withFetchWord_runs_setstate :
    (nextOf (step (State.reset.withFetchWord 32 6))).map (fun t => (t.init, t.input)) = some (true, []) := by decide

/-! ## One step each -/

/-- V-S1. -/
theorem test_seed_one :
    (nextOf (exec (.seed 1) State.reset)).map (fun t => (t.w[0], t.w[1], t.w[24], t.cur, t.init)) =
      some (0x00000001, 0x00016062, 0x38479f99, 24, true) := by decide
/-- V-S3: the product wraps. -/
theorem test_seed_wraps :
    (nextOf (exec (.seed 0xffffffff) State.reset)).map (fun t => (t.w[1], t.w[24])) =
      some (0x00015620, 0x9cbc0997) := by decide
/-- V-T3: the second range reads the new word 0. -/
theorem test_twist_in_place :
    twist (WordFile.zero.set 0 2) = (WordFile.zero.set 0 1).set 18 1 := by decide
/-- V-T7, words 0, 17, 18, 24. -/
theorem test_twist_count_file :
    ((twist countFile)[0], (twist countFile)[17], (twist countFile)[18], (twist countFile)[24]) =
      (0x8ebfd020, 0x00000010, 0x00000001, 0x00000001) := by decide
/-- Spec file 95, section 4. -/
theorem test_temper_table :
    [0x80000000, 0xffffffff, 0x00000100, 0x00020000, 0xdeadbeef].map temper =
      [0x80000000, 0x9dafdaff, 0x00800100, 0x01020000, 0x95759bef] := by decide
/-- V-G and V-N1: SEED 1, then NEXT. -/
theorem test_next_after_seed_one :
    ((nextOf (exec (.seed 1) State.reset)).bind fun t => (nextOf (exec .next t)).map fun u => (u.cur, u.w[0], u.out)) =
      some (0, 0x73786660, [.ok [], .ok [0xd86b4660]]) := by decide
/-- P4: cursor 23 does not twist. -/
theorem test_next_below_24 :
    (nextOf (exec .next (block 23 true []))).map (fun t => (t.cur, t.w[0], t.out)) =
      some (24, 1, [.ok [0x02080419]]) := by decide
/-- V-G: bit 31 of the drawn word 0xd86b4660 is cleared. -/
theorem test_next31_after_seed_one :
    ((nextOf (exec (.seed 1) State.reset)).bind fun t => (nextOf (exec .next31 t)).map fun u => u.out) =
      some [.ok [], .ok [0x586b4660]] := by decide
/-- V-G. -/
theorem test_nextf_after_seed_one :
    ((nextOf (exec (.seed 1) State.reset)).bind fun t => (nextOf (exec .nextf t)).map fun u => u.out) =
      some [.ok [], .ok [0xcc000000, 0x3feb0d68]] := by decide
/-- V-F. -/
theorem test_f64_table :
    [0x00000000, 0x00000001, 0x7fffffff, 0x80000000, 0xffffffff].map f64 =
      [0x0000000000000000, 0x3df0000000000000, 0x3fdfffffffc00000, 0x3fe0000000000000, 0x3fefffffffe00000] := by
  decide
/-- V-X13. -/
theorem test_getstate_at_reset :
    execWords .getstate State.reset = some (List.replicate 27 0) := by decide
/-- V-X10's SETSTATE: a cursor of 25 is stored. -/
theorem test_setstate_stores_cursor_25 :
    (nextOf (exec (.setstate WordFile.zero 25) State.reset)).map (fun t => (t.cur, t.init, responseStream t)) =
      some (25, true, [0x00000000]) := by decide
/-- V-X1. -/
theorem test_next_uninitialized : execWords .next State.reset = some [0x00000001] := by decide
/-- V-X11. -/
theorem test_nextf_cursor_out_of_range : execWords .nextf (block 0xffffffff true []) = some [0x00000003] := by decide
/-- V-X7: reserved bits set; one word consumed. -/
theorem test_illegal_header :
    (nextOf (step (block 0 true [0x00000102, 0x00000002]))).map (fun t => (responseStream t, t.input)) =
      some ([0x00000002], [.word 0x00000002]) := by decide
/-- R170: the reset event discards half a SEED. -/
theorem test_reset_discards_partial_seed :
    (nextOf (step { block 3 true [0x00000001] with input := [.word 1, .reset, .word 5] })).map
      (fun t => (t.w, t.cur, t.init, t.input)) = some (WordFile.zero, 0, false, [.word 5]) := by decide
/-- R133: the cursor line after SEED 1. -/
theorem test_renderWord :
    renderWord 0x00000018 = ['0', 'x', '0', '0', '0', '0', '0', '0', '1', '8'] := by decide
/-- R80: a decimal operand, a comment, a blank line. -/
theorem test_assemble :
    assemble ['S', 'E', 'E', 'D', ' ', '8', '8', '8', '9', '7', ' ', ';', 'x', '\n', '\n', 'N', 'E', 'X', 'T', '\n',
      'D', 'U', 'M', 'P'] = some [0x00000001, 0x00015b41, 0x00000002, 0x00000005] := by decide
theorem test_assemble_refuses_33_bits :
    assemble ['S', 'E', 'E', 'D', ' ', '4', '2', '9', '4', '9', '6', '7', '2', '9', '6'] = none := by decide

/-! ## Witnesses: states and operands that meet the hypotheses of a statement together -/

theorem witness_DecodeOfEncodeGivesCommand : isDecoded (.illegal 0x00000007) = true ∧ isDecoded (.legal .next) = true := by
  decide
theorem witness_DecodeReadsExactlyTheCommand : decode [0x00000001, 9, 9] = some (.legal (.seed 9), [9]) := by decide
theorem witness_OpcodeMapSelectsSixHeaders :
    (0x00000000 : Word) ∉ ([0x00000001, 0x00000002, 0x00000003, 0x00000004, 0x00000005, 0x00000006] : List Word) ∧
    (0x00000007 : Word) ∉ ([0x00000001, 0x00000002, 0x00000003, 0x00000004, 0x00000005, 0x00000006] : List Word) := by
  decide
theorem witness_HeaderAloneDecidesLength : decode [0x00000005, 1] = some (.legal .getstate, [1]) := by decide
theorem witness_StepRunsDecodedInstruction :
    Instr.next.wellFormed = true ∧
      decode (splitAtReset (block 0 true [0x00000002, 6]).input).1 = some (.legal .next, [6]) := by decide
theorem witness_StepRunsPresentedCommand : isDecoded (.legal (.setstate countFile 25)) = true := by decide
theorem witness_StreamRunIsCommandRun :
    ∀ c ∈ [Command.legal (.seed 1), .illegal 0xff, .legal .next], isDecoded c = true := by decide
theorem witness_IllegalHeaderFaultsAndIsConsumed :
    (0xffffffff : Word) ∉ ([0x00000001, 0x00000002, 0x00000003, 0x00000004, 0x00000005, 0x00000006] : List Word) := by
  decide
theorem witness_PartialCommandWaits : (List.replicate 25 (0 : Word)).length < 26 := by decide
theorem witness_ResetEventDiscardsPartialCommand : decode [0x00000006, 1] = none ∧ decode [] = none := by decide
theorem witness_StepKeepsUninitializedBlockZero :
    ∃ s t : State, s.uninitZero ∧ s.init = false ∧ step s = .next t :=
  ⟨State.reset, State.reset, fun _ => ⟨rfl, rfl⟩, rfl, eq_next_of_nextOf (by decide)⟩
theorem witness_InitSetBySeedOrSetstate :
    ((nextOf (step (block 0 false [1, 7]))).map fun t => t.init) = some true ∧ (block 0 false [1, 7]).init = false := by
  decide
theorem witness_InitClearedByReset :
    ((nextOf (step { block 0 true [] with input := [.reset] })).map fun t => t.init) = some false := by decide
theorem witness_LifecycleTransitionTable :
    isDraw .next31 = true ∧ lifecycle State.reset = .uninitialized ∧
      (0x00000102 : Word) ∉ ([0x00000001, 0x00000002, 0x00000003, 0x00000004, 0x00000005, 0x00000006] : List Word) := by
  decide
theorem witness_OnlyBadSetstateMakesCursorIllegal :
    ((nextOf (step (block 24 true (encode (.setstate countFile 25))))).map fun t => t.cur) = some 25 ∧
      (block 24 true []).cur.toNat ≤ 24 := by decide
theorem witness_OnlySeedSetstateResetRepairCursor :
    ((nextOf (step (block 25 true [1, 7]))).map fun t => t.cur) = some 24 ∧
    ((nextOf (step (block 25 true (encode (.setstate countFile 24))))).map fun t => t.cur) = some 24 ∧
    ((nextOf (step { block 25 true [] with input := [.reset] })).map fun t => t.cur) = some 0 := by decide
theorem witness_FaultingCommandChangesNoState :
    ((nextOf (runCommand (.legal .next) State.reset)).map fun t => t.out) =
      some (State.reset.out ++ [.fault .uninitializedGenerator]) := by decide
theorem witness_CommandsWriteOnly_readOnly :
    isReadOnlyCommand (.legal .getstate) = true ∧ (nextOf (runCommand (.legal .getstate) State.reset)).isSome = true := by
  decide
theorem witness_CommandsWriteOnly_draw :
    isDrawCommand (.legal .nextf) = true ∧ (block 23 true []).cur.toNat ≠ 24 ∧
      (nextOf (runCommand (.legal .nextf) (block 23 true []))).isSome = true ∧
      24 < (block 25 true []).cur.toNat ∧
      (nextOf (runCommand (.legal .nextf) (block 25 true []))).isSome = true := by decide
theorem witness_DrawReadsOnlyTheWordItReturns :
    (block 23 true []).cur.toNat < 24 ∧ isDraw .next = true ∧
      ({ block 23 true [] with w := WordFile.zero.set 24 25 } : State).w[24] = (block 23 true []).w[24] := by decide
theorem witness_TwistRunsOnlyInDrawAtCursor24 :
    ((nextOf (runCommand (.legal .next) (block 24 true []))).map fun t => decide (t.w ≠ (block 24 true []).w)) =
      some true := by decide
theorem witness_TwistCadenceAfterSeed :
    (∀ c ∈ [Command.legal .next, .illegal 0, .legal .getstate, .legal .nextf],
      isDrawCommand c = true ∨ isReadOnlyCommand c = true) ∧ isDraw .next31 = true := by decide
theorem witness_draws_complete_at_24_and_0 :
    (block 24 true []).init = true ∧ (block 24 true []).cur.toNat ≤ 24 ∧ (block 0 true []).cur.toNat ≤ 24 := by decide
theorem witness_draws_fault :
    (block 0 false []).init = false ∧ (block 25 true []).init = true ∧ 24 < (block 25 true []).cur.toNat ∧
      isDraw .next = true ∧ isDraw .nextf = true := by decide
/-- The two steps into and out of a cursor above 24 are those of witness_OnlyBadSetstateMakesCursorIllegal and
witness_OnlySeedSetstateResetRepairCursor. -/
theorem witness_FaultingDrawLeavesBlockAndFaultsAgain :
    isDraw .next31 = true ∧ isDraw .nextf = true ∧ (block 24 true []).init = true ∧
      (block 24 true []).cur.toNat ≤ 24 ∧ 24 < (block 25 true []).cur.toNat ∧
      ((nextOf (step (block 24 true (encode (.setstate countFile 25))))).map fun t => decide (24 < t.cur.toNat)) =
        some true ∧
      ((nextOf (step (block 25 true (encode (.setstate countFile 24))))).map fun t => decide (t.cur.toNat ≤ 24)) =
        some true := by decide
theorem witness_SeedSequenceProperties : (0 : Word) ≠ 0xffffffff := by decide
/-- R133's example, the dump after SEED 1: line 1, the start of line 2, and its end. -/
theorem witness_DumpShowsTheWholeSnapshot :
    (renderDump (seedfill WordFile.zero 1) 24).take 43 =
        "0x00000018\n0x00000001 0x00016062 0x0710b1e3".toList ∧
      (renderDump (seedfill WordFile.zero 1) 24).drop 274 = " 0x38479f99\n".toList := by decide
theorem witness_ThreeDrawsShareOneDraw :
    ∃ t : State, exec .next (block 23 true []) = .next t ∧ t.out = (block 23 true []).out ++ [.ok [0x02080419]] :=
  ⟨{ block 24 true [] with out := [.ok [0x02080419]] }, eq_next_of_nextOf (by decide), rfl⟩
theorem witness_DrawResultsStayInRange_next31 :
    ((nextOf (exec .next31 (block 23 true []))).map fun t => t.out) = some [.ok [0x02080419]] := by decide
/-- The pattern of 0x02080419, by hand from R115: p = 25, E = 1016 = 0x3f8, fraction 0x00080419 shifted left by 27. -/
theorem witness_DrawResultsStayInRange_nextf :
    ((nextOf (exec .nextf (block 23 true []))).map fun t => t.out) = some [.ok [0xc8000000, 0x3f804020]] := by decide
theorem witness_SetstateCompletesFromEveryState : 24 < (25 : Word).toNat ∧ isDraw .next = true := by decide
theorem witness_InstalledSnapshotReplaysTheStream : (block 7 true []).init = true := by decide
theorem witness_EqualBlocksAnswerEqually : (block 7 true []).sameBlock (block 7 true [5]) := ⟨rfl, rfl, rfl⟩

end Sys2Proof.Tests
end

/-! ## What decoding and fetching make of a command's words -/

section

namespace Sys2Proof

/-- The word-file operand of Format B is the payload's first 25 words (R65 (b)). -/
theorem snapshotWords_push (ws : WordFile) (c : Word) : Machine.snapshotWords (ws.push c) = ws := by
  apply Vector.ext
  intro k hk
  simp [Machine.snapshotWords]

/-- The cursor operand of Format B is the payload's last word (R65 (b)). -/
theorem snapshotCursor_push (ws : WordFile) (c : Word) : Machine.snapshotCursor (ws.push c) = c := by
  simp [Machine.snapshotCursor]

/-- A header that selects a row, with that row's operands after it, is a legal command (R66). -/
theorem decode_cons_of_selectRow {h : Word} {r : OpcodeRow} {ws rest : List Word} {i : Instr}
    (e : selectRow h = some r) (operands : decodeOperands r.op ws = some (i, rest)) :
    decode (h :: ws) = some (.legal i, rest) := by
  simp [decode, e, operands]

/-- A header that selects no row is an illegal command of one word (R68, R69). -/
theorem decode_cons_of_selectRow_none {h : Word} (e : selectRow h = none) (ws : List Word) :
    decode (h :: ws) = some (.illegal h, ws) := by
  simp [decode, e]

/-- Format I: SEED's operand is the word after the header (R63). -/
theorem decodeOperands_seed (x : Word) (rest : List Word) :
    decodeOperands .seed (encodePayload (.seed x) ++ rest) = some (.seed x, rest) := by
  have taken : takePayload 1 (x :: rest) = some (#v[x], rest) := takePayload_append #v[x] rest
  simp [decodeOperands, encodePayload, taken, Machine.seedOperand]

/-- Format B: SETSTATE's operands are the 26 words after the header (R64). -/
theorem decodeOperands_setstate (ws : WordFile) (c : Word) (rest : List Word) :
    decodeOperands .setstate (encodePayload (.setstate ws c) ++ rest) = some (.setstate ws c, rest) := by
  have taken : takePayload 26 (ws.toList ++ [c] ++ rest) = some (ws.push c, rest) := by
    rw [← Vector.toList_push, takePayload_append]
  simp only [decodeOperands, encodePayload, taken, Option.map_some, snapshotWords_push, snapshotCursor_push]

/-- A legal command is read back from its words, whatever follows them. -/
theorem decode_encode_append (i : Instr) (rest : List Word) :
    decode (encode i ++ rest) = some (.legal i, rest) := by
  cases i with
  | seed x =>
    have row : selectRow 0x00000001 = some ⟨0xffffffff, 0x00000001, .seed, .i⟩ := by decide
    exact decode_cons_of_selectRow row (decodeOperands_seed x rest)
  | next => rfl
  | next31 => rfl
  | nextf => rfl
  | getstate => rfl
  | setstate ws c =>
    have row : selectRow 0x00000006 = some ⟨0xffffffff, 0x00000006, .setstate, .b⟩ := by decide
    exact decode_cons_of_selectRow row (decodeOperands_setstate ws c rest)

/-- Every command of R60, an illegal header included, is read back from its words, whatever follows them. -/
theorem decode_encodeCommand_append {c : Command} (hc : Machine.isDecoded c = true) (rest : List Word) :
    decode (encodeCommand c ++ rest) = some (c, rest) := by
  cases c with
  | legal i => exact decode_encode_append i rest
  | illegal h => exact decode_cons_of_selectRow_none (by simpa [Machine.isDecoded] using hc) rest

end Sys2Proof

namespace Sys2Proof.Machine

/-- A command decoded before the next reset event is what is fetched; what is left is what follows its words. -/
theorem fetch_of_decode {es : List HostEvent} {c : Command} {rest : List Word}
    (h : decode (splitAtReset es).1 = some (c, rest)) :
    fetch es = .command c (rejoin rest (splitAtReset es).2) := by
  simp [fetch, h]

/-- A command's words at the head of the stream are fetched as that command, and every event after them is left. -/
theorem fetch_wordEvents_encodeCommand {c : Command} (hc : isDecoded c = true) (tail : List HostEvent) :
    fetch (wordEvents (encodeCommand c) ++ tail) = .command c tail := by
  have decoded : decode (splitAtReset (wordEvents (encodeCommand c) ++ tail)).1 =
      some (c, (splitAtReset tail).1) := by
    rw [splitAtReset_wordEvents_append, decode_encodeCommand_append hc]
  rw [fetch_of_decode decoded, splitAtReset_wordEvents_append, rejoin_splitAtReset]

/-- A step runs the command that is fetched, on the state whose stream is what the fetch left (R11). -/
theorem step_of_fetch_command {s : State} {c : Command} {rest : List HostEvent}
    (h : fetch s.input = .command c rest) : step s = runCommand c { s with input := rest } := by
  simp [step, h, State.setInput]

end Sys2Proof.Machine

end

/-! ## The statements of the scope family -/

section

open Sys2Proof Sys2Proof.Machine

/-- Settles O8: the command's words are fetched as the command and leave the further events (log entries 1 and 3). -/
theorem stepRunsPresentedCommand : Obligations.StepRunsPresentedCommand := by
  intro s c tail hc
  exact step_of_fetch_command (fetch_wordEvents_encodeCommand hc tail)

/-- Settles O7: the command decoded before the next reset event is fetched, and a legal one runs as its instruction. -/
theorem stepRunsDecodedInstruction : Obligations.StepRunsDecodedInstruction := by
  intro s i rest _ decoded
  rw [step_of_fetch_command (fetch_of_decode decoded), runCommand_legal]

end

/-! ## What a step does to the block, and what a command reads of it -/

section

namespace Sys2Proof.Machine

/-- The lifecycle state is Seeded exactly while `INIT` is 1 (R26). -/
@[simp] theorem lifecycle_eq_seeded (s : State) : lifecycle s = .seeded ↔ s.init = true := by
  cases h : s.init <;> simp [lifecycle, h]

/-- The lifecycle state is Uninitialized exactly while `INIT` is 0 (R26). -/
@[simp] theorem lifecycle_eq_uninitialized (s : State) : lifecycle s = .uninitialized ↔ s.init = false := by
  cases h : s.init <;> simp [lifecycle, h]

/-- Two states with the same `INIT` are in the same lifecycle state (R26). -/
theorem lifecycle_congr {s t : State} (h : t.init = s.init) : lifecycle t = lifecycle s := by
  simp only [lifecycle, h]

/-- A reset event at the head of the stream is what is fetched, since no word stands before it (R170). -/
theorem fetch_reset_cons (tail : List HostEvent) : fetch (.reset :: tail) = .reset tail := rfl

/-- A step takes the reset event that is fetched (R170). -/
theorem step_of_fetch_reset {s : State} {rest : List HostEvent} (h : fetch s.input = .reset rest) :
    step s = .next { s with w := WordFile.zero, cur := 0, init := false, input := rest } := by
  simp [step, h, takeReset_eq, State.setInput]

/-- A header that is none of the six of R66 is an illegal command of R60. -/
theorem isDecoded_illegal {h : Word} (unknown : h ∉ ([1, 2, 3, 4, 5, 6] : List Word)) :
    isDecoded (.illegal h) = true := by
  simp [isDecoded, selectRow_eq_none.mpr unknown]

/-- What a step does to the block: nothing; the seeding; the snapshot; a draw with a twist; a plain draw; the reset. -/
theorem step_block {s t : State} (h : step s = .next t) :
    t.sameBlock s ∨
    (∃ x rest, fetch s.input = .command (.legal (.seed x)) rest ∧
      t.w = seedfill s.w x ∧ t.cur = 24 ∧ t.init = true) ∨
    (∃ ws c rest, fetch s.input = .command (.legal (.setstate ws c)) rest ∧
      t.w = ws ∧ t.cur = c ∧ t.init = true) ∨
    (∃ c rest, fetch s.input = .command c rest ∧ isDrawCommand c = true ∧
      s.init = true ∧ t.init = true ∧ s.cur.toNat = 24 ∧ t.w = twist s.w ∧ t.cur = 0) ∨
    (∃ c rest, fetch s.input = .command c rest ∧ isDrawCommand c = true ∧
      s.init = true ∧ t.init = true ∧ s.cur.toNat < 24 ∧ t.w = s.w ∧ t.cur = s.cur + 1) ∨
    (∃ rest, fetch s.input = .reset rest ∧ t.w = WordFile.zero ∧ t.cur = 0 ∧ t.init = false) := by
  rcases step_cases s with ⟨c, rest, fetched, e⟩ | ⟨rest, fetched, e⟩ | ⟨_, e⟩
  · rcases runCommand_block (e.symm.trans h) with
      same | ⟨x, rfl, seeded⟩ | ⟨ws, cur, rfl, loaded⟩ | ⟨draws, twisted⟩ | ⟨draws, plain⟩
    · exact .inl same
    · exact .inr (.inl ⟨x, rest, fetched, seeded⟩)
    · exact .inr (.inr (.inl ⟨ws, cur, rest, fetched, loaded⟩))
    · exact .inr (.inr (.inr (.inl ⟨c, rest, fetched, draws, twisted⟩)))
    · exact .inr (.inr (.inr (.inr (.inl ⟨c, rest, fetched, draws, plain⟩))))
  · obtain rfl := next_inj (e.symm.trans h)
    exact .inr (.inr (.inr (.inr (.inr ⟨rest, fetched, rfl, rfl, rfl⟩))))
  · obtain rfl := next_inj (e.symm.trans h)
    exact .inl ⟨rfl, rfl, rfl⟩

/-- A step that ends with `INIT = 0` left the block alone or took the reset event. -/
theorem step_block_of_uninit {s t : State} (h : step s = .next t) (uninit : t.init = false) :
    t.sameBlock s ∨ (∃ rest, fetch s.input = .reset rest ∧ t.w = WordFile.zero ∧ t.cur = 0) := by
  rcases step_block h with same | ⟨_, _, _, _, _, hi⟩ | ⟨_, _, _, _, _, _, hi⟩ |
    ⟨_, _, _, _, _, hi, _⟩ | ⟨_, _, _, _, _, hi, _⟩ | ⟨rest, fetched, hw, hc, _⟩
  · exact .inl same
  · simp [hi] at uninit
  · simp [hi] at uninit
  · simp [hi] at uninit
  · simp [hi] at uninit
  · exact .inr ⟨rest, fetched, hw, hc⟩

/-- GETSTATE and an illegal header leave the whole block (R130, R142). -/
theorem runCommand_keeps_block_of_readOnly {c : Command} {s t : State} (readOnly : isReadOnlyCommand c = true)
    (h : runCommand c s = .next t) : t.sameBlock s := by
  match c with
  | .illegal g =>
    obtain rfl := next_inj ((runCommand_illegal g s).symm.trans h)
    exact ⟨rfl, rfl, rfl⟩
  | .legal .getstate =>
    obtain rfl := next_inj ((exec_getstate s).symm.trans h)
    exact ⟨rfl, rfl, rfl⟩

/-- A draw leaves `INIT`; it writes the word file at cursor 24 only, and nothing of the block when it faults (R111). -/
theorem runCommand_frame_of_draw {c : Command} {s t : State} (draws : isDrawCommand c = true)
    (h : runCommand c s = .next t) :
    t.init = s.init ∧ (s.cur.toNat ≠ 24 → t.w = s.w) ∧
      (s.init = false ∨ 24 < s.cur.toNat → t.w = s.w ∧ t.cur = s.cur) := by
  rcases runCommand_block h with
    ⟨hw, hc, hi⟩ | ⟨_, rfl, _⟩ | ⟨_, _, rfl, _⟩ | ⟨_, hs, ht, at24, _⟩ | ⟨_, hs, ht, below, hw, _⟩
  · exact ⟨hi, fun _ => hw, fun _ => ⟨hw, hc⟩⟩
  · simp [isDrawCommand, isDraw] at draws
  · simp [isDrawCommand, isDraw] at draws
  · exact ⟨ht.trans hs.symm, fun ne => absurd at24 ne, by simp [hs, at24]⟩
  · exact ⟨ht.trans hs.symm, fun _ => hw, by simp [hs, below.le.not_gt]⟩

/-- Adding 1 to a cursor below 24 does not wrap. -/
theorem toNat_add_one_of_lt {c : Word} (h : c.toNat < 24) : (c + 1).toNat = c.toNat + 1 := by
  bv_omega

/-- A draw completes, and leaves `INIT` (R25, R111). -/
theorem drawRespond_keeps_init (data : Word → List Word) (s : State) :
    ∃ t, drawRespond data s = .next t ∧ t.init = s.init := by
  rcases drawRespond_cases data s with ⟨_, e⟩ | ⟨_, _, e⟩ | ⟨_, _, e⟩ | ⟨_, _, e⟩ <;>
    exact ⟨_, e, rfl⟩

/-- Two equal blocks draw equally (R27). -/
theorem drawRespond_sameBlock (data : Word → List Word) {s t : State} (same : s.sameBlock t) :
    ∃ s' t' r, drawRespond data s = .next s' ∧ drawRespond data t = .next t' ∧
      s'.out = s.out ++ [r] ∧ t'.out = t.out ++ [r] ∧ s'.sameBlock t' := by
  obtain ⟨w, cur, init, sin, sout⟩ := s
  obtain ⟨_, _, _, tin, tout⟩ := t
  obtain ⟨rfl, rfl, rfl⟩ := same
  rcases drawRespond_cases data ⟨w, cur, init, sin, sout⟩ with
    ⟨hi, e⟩ | ⟨hi, hc, e⟩ | ⟨hi, hc, e⟩ | ⟨hc, hi, e⟩
  · exact ⟨_, _, _, e, drawRespond_of_uninit data hi, rfl, rfl, rfl, rfl, rfl⟩
  · exact ⟨_, _, _, e, drawRespond_of_cursor data hi hc, rfl, rfl, rfl, rfl, rfl⟩
  · exact ⟨_, _, _, e, drawRespond_of_twist data hi hc, rfl, rfl, rfl, rfl, rfl⟩
  · exact ⟨_, _, _, e, drawRespond_of_plain (s := ⟨w, cur, init, tin, tout⟩) data hi hc,
      rfl, rfl, rfl, rfl, rfl⟩

/-- Two equal blocks answer one command equally (R27). -/
theorem runCommand_sameBlock (c : Command) {s t : State} (same : s.sameBlock t) :
    ∃ s' t' r, runCommand c s = .next s' ∧ runCommand c t = .next t' ∧
      s'.out = s.out ++ [r] ∧ t'.out = t.out ++ [r] ∧ s'.sameBlock t' := by
  cases c with
  | illegal h => exact ⟨_, _, _, runCommand_illegal h s, runCommand_illegal h t, rfl, rfl, same⟩
  | legal i =>
    cases i with
    | seed x =>
      obtain ⟨hw, hc, hi⟩ := same
      exact ⟨_, _, _, exec_seed x s, exec_seed x t, rfl, rfl, congrArg (seedfill · x) hw, rfl, rfl⟩
    | getstate =>
      have read : memReadBlock t = memReadBlock s := by
        obtain ⟨hw, hc, hi⟩ := same
        simp only [memReadBlock, hw, hc]
      exact ⟨_, _, _, exec_getstate s, exec_getstate t, rfl, by rw [read], same⟩
    | setstate ws cur =>
      exact ⟨_, _, _, exec_setstate ws cur s, exec_setstate ws cur t, rfl, rfl, rfl, rfl, rfl⟩
    | _ =>
      rw [runCommand_legal, runCommand_legal, exec_draw rfl, exec_draw rfl]
      exact drawRespond_sameBlock _ same

/-- A run goes on from where its first command ends. -/
theorem runCommands_cons_of_next {c : Command} {s u : State} (h : runCommand c s = .next u)
    (cs : List Command) : runCommands (c :: cs) s = runCommands cs u := by
  simp only [runCommands, h]

end Sys2Proof.Machine

end

/-! ## The statements of the state family -/

section

open Sys2Proof Sys2Proof.Machine

/-- Settles O13: the fields of the reset state (R32). -/
theorem resetStateIsUninitializedDefault : Obligations.ResetStateIsUninitializedDefault := by
  refine ⟨fun k => ?_, State.reset_cur, State.reset_init, ?_⟩
  · simp [WordFile.zero]
  · simp

/-- Settles O16: the reset block is all zero. -/
theorem resetBlockIsZeroWhileUninitialized : Obligations.ResetBlockIsZeroWhileUninitialized :=
  fun _ => ⟨State.reset_w, State.reset_cur⟩

/-- Settles O15: a step that ends with `INIT = 0` left the block alone or took the reset event. -/
theorem stepKeepsUninitializedBlockZero : Obligations.StepKeepsUninitializedBlockZero := by
  intro s t zero h uninit
  rcases step_block_of_uninit h uninit with ⟨hw, hc, hi⟩ | ⟨_, _, hw, hc⟩
  · rw [hw, hc]
    exact zero (hi.symm.trans uninit)
  · exact ⟨hw, hc⟩

/-- Settles O17: of the ways a step changes the block, only the seeding and the snapshot set `INIT`, and only the reset
clears it. -/
theorem initSetBySeedOrSetstateClearedByReset : Obligations.InitSetBySeedOrSetstateClearedByReset := by
  intro s t h
  refine ⟨fun off on => ?set, fun on off => ?clear⟩
  case set =>
    rcases step_block h with ⟨_, _, hi⟩ | ⟨x, rest, fetched, _⟩ | ⟨ws, c, rest, fetched, _⟩ |
      ⟨_, _, _, _, hs, _⟩ | ⟨_, _, _, _, hs, _⟩ | ⟨_, _, _, _, ht⟩
    · simp [hi, off] at on
    · exact ⟨_, rest, fetched, .inl ⟨x, rfl⟩⟩
    · exact ⟨_, rest, fetched, .inr ⟨ws, c, rfl⟩⟩
    · simp [hs] at off
    · simp [hs] at off
    · simp [ht] at on
  case clear =>
    rcases step_block_of_uninit h off with ⟨_, _, hi⟩ | ⟨rest, fetched, _⟩
    · simp [hi, on] at off
    · exact ⟨rest, fetched⟩

/-- Settles O19: every other way a step changes the block leaves a legal cursor legal, the plain draw because it
advances a cursor below 24 by one. -/
theorem onlyBadSetstateMakesCursorIllegal : Obligations.OnlyBadSetstateMakesCursorIllegal := by
  intro s t h legal illegal
  rcases step_block h with ⟨_, hc, _⟩ | ⟨_, _, _, _, hc, _⟩ | ⟨ws, c, rest, fetched, _, hc, _⟩ |
    ⟨_, _, _, _, _, _, _, _, hc⟩ | ⟨_, _, _, _, _, _, below, _, hc⟩ | ⟨_, _, _, hc, _⟩ <;>
    rw [hc] at illegal
  · exact absurd legal illegal
  · exact absurd (by decide : (24 : Word).toNat ≤ 24) illegal
  · exact ⟨ws, c, rest, fetched, not_le.mp illegal, hc⟩
  · exact absurd (by decide : (0 : Word).toNat ≤ 24) illegal
  · refine absurd ?_ illegal
    rw [cursorLegal, toNat_add_one_of_lt below]
    exact below
  · exact absurd (by decide : (0 : Word).toNat ≤ 24) illegal

/-- Settles O18: the transition table, row by row (R26, R142). -/
theorem lifecycleTransitionTable : Obligations.LifecycleTransitionTable := by
  refine ⟨fun s => ⟨lifecycle_eq_seeded s, lifecycle_eq_uninitialized s⟩,
    fun x s => ⟨_, exec_seed x s, rfl⟩, fun ws c s => ⟨_, exec_setstate ws c s, rfl⟩,
    fun s => ⟨_, exec_getstate s, rfl⟩, ?illegalHeader, ?draw, ?reset⟩
  case illegalHeader =>
    intro h s tail unknown
    have ran := stepRunsPresentedCommand s (.illegal h) tail (isDecoded_illegal unknown)
    exact ⟨_, ran.trans (runCommand_illegal h _), rfl, ⟨rfl, rfl, rfl⟩, rfl, rfl, rfl⟩
  case draw =>
    intro i s draws
    rw [exec_draw draws]
    obtain ⟨t, drawn, hi⟩ := drawRespond_keeps_init (drawData i) s
    refine ⟨t, drawn, lifecycle_congr hi, fun uninit => ?_⟩
    rw [drawRespond_of_uninit _ ((lifecycle_eq_uninitialized s).mp uninit), raise_eq] at drawn
    obtain rfl := next_inj drawn
    exact ⟨rfl, rfl, rfl, rfl⟩
  case reset =>
    exact fun s tail => ⟨_, step_of_fetch_reset (fetch_reset_cons tail), rfl⟩

/-- Settles O24: the streams from the one response per command, the block from the frames of the
read-only commands and of the draws. -/
theorem commandsWriteOnlyWhatTheTableLists : Obligations.CommandsWriteOnlyWhatTheTableLists := by
  intro c s t h
  obtain ⟨t', r, ran, sameInput, oneMore⟩ := runCommand_next c s
  obtain rfl := next_inj (ran.symm.trans h)
  exact ⟨sameInput, fun readOnly => runCommand_keeps_block_of_readOnly readOnly h,
    fun draws => runCommand_frame_of_draw draws h, r, oneMore⟩

/-- Settles O25: below cursor 24 a draw is its fault or the plain draw, which returns W[CUR + 1]. -/
theorem drawReadsOnlyTheWordItReturns : Obligations.DrawReadsOnlyTheWordItReturns := by
  intro i s t hc draws sameCur sameInit sameWord
  obtain ⟨tw, tcur, tinit, tin, tout⟩ := t
  obtain rfl : tcur = s.cur := sameCur
  obtain rfl : tinit = s.init := sameInit
  simp only [exec_draw draws]
  cases hi : s.init with
  | false =>
    exact ⟨_, _, _, drawRespond_of_uninit _ hi, drawRespond_of_uninit _ rfl, rfl, rfl, rfl⟩
  | true =>
    refine ⟨_, _, _, drawRespond_of_plain _ hi hc, drawRespond_of_plain (s := ⟨tw, s.cur, true, tin, tout⟩) _ rfl hc,
      rfl, ?_, rfl⟩
    simp only [sameWord]

/-- Settles O48, by induction on the list of commands: equal blocks answer the first command equally and are equal
again. -/
theorem equalBlocksAnswerEqually : Obligations.EqualBlocksAnswerEqually := by
  intro cs
  induction cs with
  | nil => exact fun s t same => ⟨s, t, [], rfl, rfl, by simp, by simp, rfl, same⟩
  | cons c cs ih =>
    intro s t same
    obtain ⟨s₁, t₁, r, es, et, os, ot, same₁⟩ := runCommand_sameBlock c same
    obtain ⟨s', t', rs, es', et', os', ot', len, same'⟩ := ih s₁ t₁ same₁
    refine ⟨s', t', r :: rs, ?_, ?_, ?_, ?_, by simp [len], same'⟩
    · rw [runCommands_cons_of_next es, es']
    · rw [runCommands_cons_of_next et, et']
    · simp [os', os]
    · simp [ot', ot]

end

/-! ## The stream, the word file and the bytes: what a run leaves of each -/

section

namespace Sys2Proof.Machine

/-- A draw neither reads nor writes the command stream (R40). -/
theorem drawRespond_of_input {data : Word → List Word} {s t : State} (h : drawRespond data s = .next t)
    (es : List HostEvent) : drawRespond data { s with input := es } = .next { t with input := es } := by
  rcases drawRespond_cases data s with ⟨hi, e⟩ | ⟨hi, hc, e⟩ | ⟨hi, hc, e⟩ | ⟨hc, hi, e⟩ <;>
    obtain rfl := next_inj (e.symm.trans h)
  · exact drawRespond_of_uninit data hi
  · exact drawRespond_of_cursor data hi hc
  · exact drawRespond_of_twist data hi hc
  · exact drawRespond_of_plain (s := { s with input := es }) data hi hc

/-- A command neither reads nor writes what stands behind it on the command stream (R40, R60). -/
theorem runCommand_of_input {c : Command} {s t : State} (h : runCommand c s = .next t) (es : List HostEvent) :
    runCommand c { s with input := es } = .next { t with input := es } := by
  cases c with
  | illegal g =>
    obtain rfl := next_inj ((runCommand_illegal g s).symm.trans h)
    exact runCommand_illegal g _
  | legal i =>
    cases i with
    | seed x =>
      obtain rfl := next_inj ((exec_seed x s).symm.trans h)
      exact exec_seed x _
    | getstate =>
      obtain rfl := next_inj ((exec_getstate s).symm.trans h)
      exact exec_getstate _
    | setstate ws c =>
      obtain rfl := next_inj ((exec_setstate ws c s).symm.trans h)
      exact exec_setstate ws c _
    | _ =>
      rw [runCommand_legal, exec_draw rfl] at h ⊢
      exact drawRespond_of_input h es

/-- A run of steps goes on from where its first step ends (R180). -/
theorem runSteps_succ_of_next {s u : State} (h : step s = .next u) (k : Nat) :
    runSteps (k + 1) s = runSteps k u := by
  simp only [runSteps, h]

/-- The running seed of SEEDFILL's loop follows the recurrence of R90. -/
theorem seedTerm_succ (x : Word) (k : Nat) : seedTerm x (k + 1) = lcgNext (seedTerm x k) := rfl

/-- SEEDFILL's loop after `k` turns from the seed `x`: the running seed is term `k` of the expansion, and the words
below `k` are its first `k` terms (R90). -/
def SeedfillInv (x : Word) (k : Nat) (p : WordFile × Word) : Prop :=
  p.2 = seedTerm x k ∧ ∀ (j : Nat) (hj : j < 25), j < k → p.1[j] = seedTerm x j

/-- A turn of SEEDFILL's loop writes the next term of the expansion (R90). -/
theorem seedfillStep_keeps_inv (x : Word) (k : Nat) (hk : k < 25) (p : WordFile × Word)
    (h : SeedfillInv x k p) : SeedfillInv x (k + 1) (seedfillStep p ⟨k, hk⟩) := by
  obtain ⟨running, filled⟩ := h
  refine ⟨by rw [seedTerm_succ, ← running]; rfl, fun j hj below => ?_⟩
  rcases Nat.lt_succ_iff_lt_or_eq.mp below with earlier | rfl
  · simpa [seedfillStep, Vector.getElem_set_ne, earlier.ne'] using filled j hj earlier
  · simpa [seedfillStep] using running

/-- Word `k` that SEEDFILL writes is term `k` of the expansion, whatever the previous file (R90). -/
theorem seedfill_getElem (w : WordFile) (x : Word) (k : Nat) (hk : k < 25) :
    (seedfill w x)[k] = seedTerm x k := by
  have filled : SeedfillInv x 25 ((List.finRange 25).foldl seedfillStep (w, x)) :=
    foldl_finRange_invariant seedfillStep (SeedfillInv x) (w, x) ⟨rfl, by simp⟩ (seedfillStep_keeps_inv x)
  exact filled.2 k hk hk

/-- SEEDFILL's file is the file of the expansion, whatever the previous file (R90). -/
theorem seedfill_eq_seedFile (w : WordFile) (x : Word) : seedfill w x = seedFile x := by
  apply Vector.ext
  intro k hk
  rw [seedfill_getElem, seedFile, Vector.getElem_ofFn]

/-- Any number of GETSTATE return the same state block and change nothing else (R46, R130). -/
theorem runCommands_replicate_getstate (n : Nat) (s : State) :
    runCommands (List.replicate n (.legal .getstate)) s =
      .next { s with out := s.out ++ List.replicate n (.ok (memReadBlock s)) } := by
  induction n generalizing s with
  | zero => simp [runCommands]
  | succ n ih =>
    have read : memReadBlock { s with out := s.out ++ [.ok (memReadBlock s)] } = memReadBlock s := rfl
    rw [List.replicate_succ, runCommands_cons_of_next (c := .legal .getstate) (exec_getstate s), ih, read,
      List.append_assoc, List.singleton_append, ← List.replicate_succ]

/-- The four bytes of a word, most significant first, concatenate to the word (R43). -/
theorem bytes_append_eq_word (w : Word) :
    w.extractLsb' 24 8 ++ w.extractLsb' 16 8 ++ w.extractLsb' 8 8 ++ w.extractLsb' 0 8 = w := by
  rw [BitVec.extractLsb'_append_extractLsb'_eq_extractLsb' (by rfl),
    BitVec.extractLsb'_append_extractLsb'_eq_extractLsb' (by rfl),
    BitVec.extractLsb'_append_extractLsb'_eq_extractLsb' (by rfl), BitVec.extractLsb'_eq_self]

/-- The bytes of a word are read back as that word in the order they were written in, and the bytes after them are read
on (R43). -/
theorem snapshotOfBytes_wordBytes_append (order : ByteOrder) (w : Word) (bytes : List Byte) :
    snapshotOfBytes order (wordBytes order w ++ bytes) = w :: snapshotOfBytes order bytes := by
  cases order with
  | little => exact congrArg (· :: snapshotOfBytes .little bytes) (bytes_append_eq_word w)
  | big => exact congrArg (· :: snapshotOfBytes .big bytes) (bytes_append_eq_word w)

/-- A snapshot's bytes are read back as its words in the order they were written in (R43). -/
theorem snapshotOfBytes_snapshotBytes (order : ByteOrder) (ws : List Word) :
    snapshotOfBytes order (snapshotBytes order ws) = ws := by
  induction ws with
  | nil => rfl
  | cons w ws ih =>
    rw [snapshotBytes, List.flatMap_cons, snapshotOfBytes_wordBytes_append, ← snapshotBytes, ih]

end Sys2Proof.Machine

end

/-! ## The statements of the memory family -/

section

open Sys2Proof Sys2Proof.Machine

/-- Settles O9, by induction on the list of commands: the first step runs the first command (log entries 1 and 3), which
leaves the words of the others where they stand. -/
theorem streamRunIsCommandRun : Obligations.StreamRunIsCommandRun := by
  intro cs
  induction cs with
  | nil => exact fun s tail _ => rfl
  | cons c cs ih =>
    intro s tail decoded
    obtain ⟨hc, hcs⟩ := List.forall_mem_cons.mp decoded
    obtain ⟨t, _, ran, _⟩ := runCommand_next c s
    have stepped : step { s with input := wordEvents ((c :: cs).flatMap encodeCommand) ++ tail } =
        .next { t with input := wordEvents (cs.flatMap encodeCommand) ++ tail } := by
      rw [List.flatMap_cons, wordEvents_append, List.append_assoc, stepRunsPresentedCommand s c _ hc,
        runCommand_of_input ran]
    rw [List.length_cons, runSteps_succ_of_next stepped, ih t tail hcs,
      runCommands_cons_of_next (runCommand_of_input ran tail)]

/-- Settles O49: GETSTATE writes only its response, SEEDFILL does not read the previous file, and SETSTATE installs its
payload whatever the block. -/
theorem getstateSeedSetstateAreIdempotent : Obligations.GetstateSeedSetstateAreIdempotent := by
  refine ⟨fun n s => ⟨_, runCommands_replicate_getstate n s, ⟨rfl, rfl, rfl⟩, rfl⟩,
    fun x s => ⟨_, _, exec_seed x s, exec_seed x _, ?_, rfl, rfl⟩,
    fun ws c s => ⟨_, _, exec_setstate ws c s, exec_setstate ws c _, rfl, rfl, rfl⟩⟩
  simp only [seedfill_eq_seedFile]

/-- Settles O51: reading back holds in either byte order (log entry 9), so also in the host's open one. -/
theorem snapshotBytesReadBack : Obligations.SnapshotBytesReadBack :=
  ⟨snapshotOfBytes_snapshotBytes, snapshotOfBytes_snapshotBytes Config.snapshotByteOrder⟩

end

/-! ## What the decoder reads: its operands, its legality and its length -/

section

namespace Sys2Proof

/-- The operand of Format I is the payload (R63, R65 (a)). -/
theorem toList_eq_seedOperand (p : Vector Word 1) : p.toList = [Machine.seedOperand p] := by
  apply List.ext_getElem
  · simp
  · intro k hk _
    obtain rfl : k = 0 := by simpa using hk
    rfl

/-- The operands of Format B are the payload (R64, R65 (b)). -/
theorem snapshotWords_push_snapshotCursor (p : Vector Word 26) :
    (Machine.snapshotWords p).push (Machine.snapshotCursor p) = p := by
  apply Vector.ext
  intro k hk
  rcases Nat.lt_succ_iff_lt_or_eq.mp hk with below | rfl
  · simp [Machine.snapshotWords, below]
  · simp [Machine.snapshotCursor]

/-- The operands read for a row of the opcode map are of a command with that row's header and with the payload that was
read (R62 to R66). -/
theorem encode_of_decodeOperands {r : OpcodeRow} {ws rest : List Word} {i : Instr} (row : r ∈ opcodeTable)
    (operands : decodeOperands r.op ws = some (i, rest)) : r.pattern :: ws = encode i ++ rest := by
  simp only [opcodeTable, List.mem_cons, List.not_mem_nil, or_false] at row
  rcases row with rfl | rfl | rfl | rfl | rfl | rfl
  case inl =>
    simp only [decodeOperands, Option.map_eq_some_iff, Prod.mk.injEq] at operands
    obtain ⟨⟨p, vs⟩, taken, rfl, rfl⟩ := operands
    rw [takePayload_eq_some taken, toList_eq_seedOperand]
    rfl
  case inr.inr.inr.inr.inr =>
    simp only [decodeOperands, Option.map_eq_some_iff, Prod.mk.injEq] at operands
    obtain ⟨⟨p, vs⟩, taken, rfl, rfl⟩ := operands
    rw [takePayload_eq_some taken, encode, encodePayload, ← Vector.toList_push, snapshotWords_push_snapshotCursor]
    rfl
  all_goals
    simp only [decodeOperands, Option.some.injEq, Prod.mk.injEq] at operands
    obtain ⟨rfl, rfl⟩ := operands
    rfl

/-- The operands of a row are there exactly when its format's payload words are (R68, R71). -/
theorem decodeOperands_eq_none {r : OpcodeRow} (row : r ∈ opcodeTable) (ws : List Word) :
    decodeOperands r.op ws = none ↔ ws.length < r.format.payloadWords := by
  simp only [opcodeTable, List.mem_cons, List.not_mem_nil, or_false] at row
  rcases row with rfl | rfl | rfl | rfl | rfl | rfl <;>
    simp [decodeOperands, Format.payloadWords, takePayload_eq_none]

/-- What a decoded command says of the stream: it is a value of R60, and its words were at the head. -/
theorem decode_eq_some {ws rest : List Word} {c : Command} (decoded : decode ws = some (c, rest)) :
    Machine.isDecoded c = true ∧ ws = encodeCommand c ++ rest := by
  cases ws with
  | nil => simp [decode] at decoded
  | cons h ws =>
    cases selected : selectRow h with
    | none =>
      rw [decode_cons_of_selectRow_none selected] at decoded
      obtain ⟨rfl, rfl⟩ : Command.illegal h = c ∧ ws = rest := by simpa using decoded
      exact ⟨by simp [Machine.isDecoded, selected], rfl⟩
    | some r =>
      obtain ⟨row, rfl⟩ := selectRow_eq_some selected
      simp only [decode, selected, Option.map_eq_some_iff, Prod.mk.injEq] at decoded
      obtain ⟨⟨i, vs⟩, operands, rfl, rfl⟩ := decoded
      exact ⟨rfl, encode_of_decodeOperands row operands⟩

/-- The decoder answers `ILLEGAL` of a header exactly when the header selects no row (R69). -/
theorem decode_cons_eq_illegal {h : Word} {ws : List Word} :
    decode (h :: ws) = some (.illegal h, ws) ↔ selectRow h = none := by
  refine ⟨fun decoded => ?_, fun unknown => decode_cons_of_selectRow_none unknown ws⟩
  simpa [Machine.isDecoded] using (decode_eq_some decoded).1

/-- The six headers of R66 are those with a zero reserved field and an opcode field of 1 to 6 (R61). -/
theorem mem_headers_iff_fields (h : Word) :
    h ∈ ([1, 2, 3, 4, 5, 6] : List Word) ↔
      h.extractLsb' 8 24 = 0 ∧ 1 ≤ (h.extractLsb' 0 8).toNat ∧ (h.extractLsb' 0 8).toNat ≤ 6 := by
  have reserved : h.extractLsb' 8 24 = 0 ↔ h.toNat / 256 = 0 := by
    simp [← BitVec.toNat_inj, Nat.shiftRight_eq_div_pow]
    omega
  have opcode : (h.extractLsb' 0 8).toNat = h.toNat % 256 := by simp
  simp only [reserved, opcode, List.mem_cons, List.not_mem_nil, or_false, ← BitVec.toNat_inj, BitVec.reduceToNat]
  omega

/-- The length of a command, header by header (R68). -/
theorem commandLength_eq (h : Word) :
    commandLength h = if h = 0x00000001 then 2 else if h = 0x00000006 then 27 else 1 := by
  cases selected : selectRow h with
  | none =>
    have unknown := selectRow_eq_none.mp selected
    simp only [List.mem_cons, not_or] at unknown
    obtain ⟨notSeed, _, _, _, _, notSetstate, _⟩ := unknown
    simp only [commandLength, selected]
    exact ((if_neg notSeed).trans (if_neg notSetstate)).symm
  | some r =>
    obtain ⟨row, rfl⟩ := selectRow_eq_some selected
    simp only [commandLength, selected]
    clear selected
    revert r
    decide

/-- A command is as long as its header alone says (R68). -/
theorem encode_length (i : Instr) : (encode i).length = commandLength (encodeHeader i) := by
  cases i with
  | seed x => exact (Laws.EncodedLength.seed x).2
  | next => exact Laws.EncodedLength.next.2
  | next31 => exact Laws.EncodedLength.next31.2
  | nextf => exact Laws.EncodedLength.nextf.2
  | getstate => exact Laws.EncodedLength.getstate.2
  | setstate ws c => exact (Laws.EncodedLength.setstate ws c).2

/-- No command is decoded exactly while the stream holds fewer words than the header says (R71). -/
theorem decode_cons_eq_none {h : Word} {ws : List Word} :
    decode (h :: ws) = none ↔ ws.length + 1 < commandLength h := by
  cases selected : selectRow h with
  | none => simp [decode, commandLength, selected]
  | some r =>
    simp only [decode, commandLength, selected, Option.map_eq_none_iff,
      decodeOperands_eq_none (selectRow_eq_some selected).1]
    omega

/-- A decoded command is as long as the header at the head of the stream says (R68). -/
theorem encodeCommand_length_of_decode {h : Word} {ws rest : List Word} {c : Command}
    (decoded : decode (h :: ws) = some (c, rest)) : (encodeCommand c).length = commandLength h := by
  obtain ⟨isCommand, words⟩ := decode_eq_some decoded
  cases c with
  | legal i =>
    obtain ⟨rfl, _⟩ := List.cons_eq_cons.mp words
    exact encode_length i
  | illegal g =>
    obtain ⟨rfl, _⟩ := List.cons_eq_cons.mp words
    have unknown : selectRow h = none := by simpa [Machine.isDecoded] using isCommand
    simp [encodeCommand, commandLength, unknown]

end Sys2Proof

namespace Sys2Proof.Machine

/-- Words alone hold no reset event. -/
theorem splitAtReset_wordEvents (ws : List Word) : splitAtReset (wordEvents ws) = (ws, none) := by
  simpa [splitAtReset] using splitAtReset_wordEvents_append ws []

/-- A step waits while the words presented make no whole command (R71, log entry 2). -/
theorem step_of_decode_none (s : State) {ws : List Word} (short : decode ws = none) :
    step { s with input := wordEvents ws } = .next { s with input := wordEvents ws } := by
  simp [step, fetch, splitAtReset_wordEvents, short, awaitWords]

/-- What a response to a command can be (R72 to R74): of a legal command, OK with its number of data words or a fault;
of an illegal header, IllegalCommand. -/
def ResponseFits : Command → Response → Prop
  | .legal i, .ok data => data.length = okDataWords i
  | .legal _, .fault _ => True
  | .illegal _, r => r = .fault .illegalCommand

/-- A draw produces one response: a fault, or OK with the data made of the drawn word (R112 to R114). -/
theorem drawRespond_response (data : Word → List Word) (s : State) :
    ∃ t r, drawRespond data s = .next t ∧ t.out = s.out ++ [r] ∧ t.input = s.input ∧
      ((∃ y, r = .ok (data y)) ∨ ∃ trap, r = .fault trap) := by
  rcases drawRespond_cases data s with ⟨_, e⟩ | ⟨_, _, e⟩ | ⟨_, _, e⟩ | ⟨_, _, e⟩
  · exact ⟨_, _, e, rfl, rfl, .inr ⟨_, rfl⟩⟩
  · exact ⟨_, _, e, rfl, rfl, .inr ⟨_, rfl⟩⟩
  · exact ⟨_, _, e, rfl, rfl, .inl ⟨_, rfl⟩⟩
  · exact ⟨_, _, e, rfl, rfl, .inl ⟨_, rfl⟩⟩

/-- A draw command's data words are as many as R74 says. -/
theorem drawData_length {i : Instr} (draws : isDraw i = true) (y : Word) :
    (drawData i y).length = okDataWords i := by
  cases i <;> simp only [isDraw, Bool.false_eq_true] at draws <;> rfl

/-- Running a command produces one response, of the kind its command has (R72 to R74). -/
theorem runCommand_response (c : Command) (s : State) :
    ∃ t r, runCommand c s = .next t ∧ t.out = s.out ++ [r] ∧ t.input = s.input ∧ ResponseFits c r := by
  cases c with
  | illegal h => exact ⟨_, _, runCommand_illegal h s, rfl, rfl, rfl⟩
  | legal i =>
    cases i with
    | seed x => exact ⟨_, _, exec_seed x s, rfl, rfl, rfl⟩
    | getstate => exact ⟨_, _, exec_getstate s, rfl, rfl, by simp [ResponseFits, memReadBlock, okDataWords]⟩
    | setstate ws cur => exact ⟨_, _, exec_setstate ws cur s, rfl, rfl, rfl⟩
    | _ =>
      rw [runCommand_legal, exec_draw rfl]
      obtain ⟨t, _, ran, out, input, ⟨y, rfl⟩ | ⟨trap, rfl⟩⟩ := drawRespond_response _ s
      · exact ⟨t, _, ran, out, input, drawData_length rfl y⟩
      · exact ⟨t, _, ran, out, input, trivial⟩

/-- The status word of a fault is 1 to 3 (R73). -/
theorem trapStatus_range (trap : Trap) : trapStatus trap ≠ 0 ∧ (trapStatus trap).toNat ≤ 3 := by
  cases trap <;> decide

end Sys2Proof.Machine

end

/-! ## The statements of the encoding family -/

section

open Sys2Proof Sys2Proof.Machine

/-- Settles O1: a legal command by its row and operands, an illegal header because it selects no row. -/
theorem decodeOfEncodeGivesCommand : Obligations.DecodeOfEncodeGivesCommand :=
  fun _ rest isCommand => decode_encodeCommand_append isCommand rest

/-- Settles O2: the row selected and the operands read determine the words at the head of the stream. -/
theorem decodeReadsExactlyTheCommand : Obligations.DecodeReadsExactlyTheCommand :=
  fun _ _ _ => decode_eq_some

/-- Settles O3: each row reads its own command back from its words, and a header without a row is illegal. -/
theorem opcodeMapSelectsSixHeaders : Obligations.OpcodeMapSelectsSixHeaders := by
  refine ⟨fun x => decode_encode_append (.seed x), decode_encode_append .next, decode_encode_append .next31,
    decode_encode_append .nextf, decode_encode_append .getstate, fun ws c rest => ?_,
    fun h rest unknown => decode_cons_of_selectRow_none (selectRow_eq_none.mpr unknown) rest⟩
  have decoded := decode_encode_append (.setstate ws c) rest
  simpa [encode, encodeHeader, encodePayload] using decoded

/-- Settles O4: a header is illegal when it is none of the six, and the six are told by the two fields. -/
theorem headerFieldsDecideLegality : Obligations.HeaderFieldsDecideLegality := by
  intro h rest
  rw [decode_cons_eq_illegal, selectRow_eq_none, mem_headers_iff_fields]

/-- Settles O5: what a decoded command consumes is its own words, and their number is the header's length. -/
theorem headerAloneDecidesLength : Obligations.HeaderAloneDecidesLength := by
  intro h ws
  rw [← commandLength_eq]
  refine ⟨decode_cons_eq_none, fun c rest decoded => ?_⟩
  obtain ⟨_, words⟩ := decode_eq_some decoded
  have consumed := encodeCommand_length_of_decode decoded
  refine ⟨by rw [words, ← consumed, List.drop_left], ?_⟩
  rw [← List.length_cons (a := h), words, List.length_append, consumed, Nat.add_comm]

/-- Settles O6: seven concrete decodings of R75, by evaluation. -/
theorem workedEncodingsDecode : Obligations.WorkedEncodingsDecode := by
  unfold Obligations.WorkedEncodingsDecode
  decide

/-- Settles O11: in each of the three cases the words presented are fewer than the header says (log entry 2). -/
theorem partialCommandWaits : Obligations.PartialCommandWaits := by
  intro s payload
  refine ⟨step_of_decode_none s (ws := []) rfl, step_of_decode_none s ?seed,
    fun short => step_of_decode_none s ?setstate⟩
  case seed => simp [decode_cons_eq_none, commandLength_eq]
  case setstate =>
    rw [decode_cons_eq_none, commandLength_eq]
    exact Nat.succ_lt_succ short

/-- Settles O21: the one response of a command, by its kind. -/
theorem everyCommandProducesOneResponse : Obligations.EveryCommandProducesOneResponse := by
  intro c s
  obtain ⟨t, r, ran, out, input, fits⟩ := runCommand_response c s
  cases r with
  | ok data =>
    refine ⟨t, .ok data, 0, data, ran, out, input, rfl, by decide, fun h => absurd rfl h, ?_, ?_⟩
    · rintro i rfl _
      exact fits
    · rintro h rfl
      simp [ResponseFits] at fits
  | fault trap =>
    obtain ⟨nonzero, small⟩ := trapStatus_range trap
    refine ⟨t, .fault trap, trapStatus trap, [], ran, out, input, rfl, small, fun _ => rfl,
      fun _ _ zero => absurd zero nonzero, ?_⟩
    rintro h rfl
    obtain rfl : trap = .illegalCommand := by simpa [ResponseFits] using fits
    rfl

end

/-! ## What the assembler reads of a listing -/

section

namespace Sys2Proof.Machine

/-- A character of a mnemonic or of a number: none that the assembler cuts a text at. -/
def isPlainChar (c : Char) : Bool := !isSpaceChar c && c != ',' && c != ';' && c != '\n'

theorem not_isSpaceChar_of_plain {c : Char} (plain : isPlainChar c = true) : isSpaceChar c = false := by
  simp only [isPlainChar, Bool.and_eq_true, Bool.not_eq_true'] at plain
  obtain ⟨⟨⟨notSpace, _⟩, _⟩, _⟩ := plain
  exact notSpace

/-- A text cut at a separator that stands after a piece without one. -/
theorem splitAtChar_append {sep : Char} {piece : List Char} (absent : sep ∉ piece) (rest : List Char) :
    splitAtChar sep (piece ++ sep :: rest) = piece :: splitAtChar sep rest := by
  induction piece with
  | nil => simp [splitAtChar]
  | cons c cs ih =>
    obtain ⟨ne, absent⟩ := List.ne_and_not_mem_of_not_mem_cons absent
    simp [splitAtChar, ne.symm, ih absent]

/-- A text without the separator is one piece. -/
theorem splitAtChar_of_not_mem {sep : Char} {piece : List Char} (absent : sep ∉ piece) :
    splitAtChar sep piece = [piece] := by
  induction piece with
  | nil => rfl
  | cons c cs ih =>
    obtain ⟨ne, absent⟩ := List.ne_and_not_mem_of_not_mem_cons absent
    simp [splitAtChar, ne.symm, ih absent]

/-- Items that are each read back from their texts are all read back. -/
theorem allSome_map_map {α β : Type} {read : β → Option α} {write : α → β} (h : ∀ x, read (write x) = some x)
    (xs : List α) : allSome ((xs.map write).map read) = some xs := by
  induction xs with
  | nil => rfl
  | cons x xs ih => simp only [List.map_cons, allSome, h, ih, Option.map_some]

/-- A text that neither begins nor ends with white space is trimmed. -/
theorem trimSpaces_eq_self {cs : List Char} (first : ∀ c ∈ cs.head?, isSpaceChar c = false)
    (last : ∀ c ∈ cs.getLast?, isSpaceChar c = false) : trimSpaces cs = cs := by
  have keep : ∀ ds : List Char, (∀ c ∈ ds.head?, isSpaceChar c = false) → ds.dropWhile isSpaceChar = ds := by
    intro ds h
    cases ds with
    | nil => rfl
    | cons d ds => exact List.dropWhile_cons_of_neg (by simp [h d rfl])
  rw [trimSpaces, keep cs first, keep cs.reverse (by simpa using last), List.reverse_reverse]

/-- A space before a text is trimmed. -/
theorem trimSpaces_space_cons (cs : List Char) : trimSpaces (' ' :: cs) = trimSpaces cs := rfl

/-- A space after a text is trimmed. -/
theorem trimSpaces_append_space (cs : List Char) : trimSpaces (cs ++ [' ']) = trimSpaces cs := by
  rw [trimSpaces, trimSpaces, List.dropWhile_append]
  split
  next blank => rw [List.isEmpty_iff.mp blank]; rfl
  next => rw [List.reverse_append]; rfl

/-! ### Numbers -/

theorem digitValue_hexDigit {n : Nat} (h : n < 16) : digitValue 16 (hexDigit n) = some n := by
  revert n
  decide

theorem isPlainChar_hexDigit {n : Nat} (h : n < 16) : isPlainChar (hexDigit n) = true := by
  revert n
  decide

/-- The eight digits of a word are read as its value. -/
theorem digitsValue_wordDigits (n : Nat) :
    digitsValue 16 0 ([7, 6, 5, 4, 3, 2, 1, 0].map fun k => hexDigit ((n / 16 ^ k) % 16)) = some (n % 2 ^ 32) := by
  have digit : ∀ m : Nat, digitValue 16 (hexDigit (m % 16)) = some (m % 16) :=
    fun m => digitValue_hexDigit (Nat.mod_lt m (by decide))
  simp only [List.map_cons, List.map_nil, digitsValue, digit, Option.some.injEq]
  omega

/-- A rendered word is read as the word (R80, R133). -/
theorem parseImm32_renderWord (w : Word) : parseImm32 (renderWord w) = some w := by
  have value := digitsValue_wordDigits w.toNat
  rw [Nat.mod_eq_of_lt w.isLt] at value
  simp only [List.map_cons, List.map_nil] at value
  simp only [parseImm32, renderWord, List.map_cons, List.map_nil, value, w.isLt, if_true, BitVec.ofNat_toNat,
    BitVec.setWidth_eq]

theorem isPlainChar_of_mem_renderWord {w : Word} {c : Char} (h : c ∈ renderWord w) : isPlainChar c = true := by
  simp only [renderWord, List.mem_cons, List.mem_map] at h
  rcases h with rfl | rfl | ⟨k, _, rfl⟩
  · rfl
  · rfl
  · exact isPlainChar_hexDigit (Nat.mod_lt _ (by decide))

theorem not_mem_renderWord {sep : Char} (cuts : isPlainChar sep = false) (w : Word) : sep ∉ renderWord w := by
  intro h
  simp [isPlainChar_of_mem_renderWord h] at cuts

/-- A rendered word has no white space around it. -/
theorem trimSpaces_renderWord (w : Word) : trimSpaces (renderWord w) = renderWord w :=
  trimSpaces_eq_self
    (fun _ h => not_isSpaceChar_of_plain (isPlainChar_of_mem_renderWord (List.mem_of_head? h)))
    (fun _ h => not_isSpaceChar_of_plain (isPlainChar_of_mem_renderWord (List.mem_of_getLast? h)))

/-! ### Operands -/

/-- Operands begin with the `0` of `0x`. -/
theorem listingOperands_cons (w : Word) (ws : List Word) : ∃ ds, listingOperands (w :: ws) = '0' :: ds := by
  cases ws <;> exact ⟨_, rfl⟩

/-- The operands of a listing, cut at the commas: each but the first has the space of the layout before it. -/
theorem splitAtChar_listingOperands (w : Word) (ws : List Word) {pre : List Char} (absent : ',' ∉ pre) :
    splitAtChar ',' (pre ++ listingOperands (w :: ws)) =
      (pre ++ renderWord w) :: ws.map fun v => ' ' :: renderWord v := by
  induction ws generalizing w pre with
  | nil => exact splitAtChar_of_not_mem (by simp [listingOperands, absent, not_mem_renderWord (sep := ',') rfl w])
  | cons v vs ih =>
    have cut := splitAtChar_append (sep := ',') (piece := pre ++ renderWord w)
      (by simp [absent, not_mem_renderWord (sep := ',') rfl w]) ([' '] ++ listingOperands (v :: vs))
    rw [ih v (by decide)] at cut
    simpa [listingOperands] using cut

/-- The operands of a listing are read as those operands (R80). -/
theorem parseOperands_listingOperands (ws : List Word) : parseOperands (listingOperands ws) = some ws := by
  have word : ∀ w, parseImm32 (trimSpaces (renderWord w)) = some w := fun w => by
    rw [trimSpaces_renderWord, parseImm32_renderWord]
  cases ws with
  | nil => rfl
  | cons w ws =>
    have nonempty : listingOperands (w :: ws) ≠ [] := by
      obtain ⟨ds, first⟩ := listingOperands_cons w ws
      simp [first]
    have pieces := splitAtChar_listingOperands w ws (pre := []) (by simp)
    rw [List.nil_append, List.nil_append] at pieces
    have others : allSome ((ws.map fun v => ' ' :: renderWord v).map fun p => parseImm32 (trimSpaces p)) = some ws := by
      refine allSome_map_map (fun v => ?_) ws
      rw [trimSpaces_space_cons, word]
    simp only [parseOperands, nonempty, if_false, pieces, List.map_cons, word, allSome, others, Option.map_some]

/-- Every character of the operands is plain, or is of the layout between two operands. -/
theorem mem_listingOperands {ws : List Word} {c : Char} (h : c ∈ listingOperands ws) :
    isPlainChar c = true ∨ c = ',' ∨ c = ' ' := by
  induction ws using listingOperands.induct with
  | case1 => simp [listingOperands] at h
  | case2 w => exact .inl (isPlainChar_of_mem_renderWord h)
  | case3 w v ws ih =>
    simp only [listingOperands, List.mem_append, List.mem_cons] at h
    rcases h with h | h | h | h
    · exact .inl (isPlainChar_of_mem_renderWord h)
    · exact .inr (.inl h)
    · exact .inr (.inr h)
    · exact ih h

/-- The last character of the operands is the last digit of the last word. -/
theorem isPlainChar_of_getLast?_listingOperands {ws : List Word} {c : Char}
    (h : (listingOperands ws).getLast? = some c) : isPlainChar c = true := by
  induction ws using listingOperands.induct with
  | case1 => simp [listingOperands] at h
  | case2 w => exact isPlainChar_of_mem_renderWord (List.mem_of_getLast? h)
  | case3 w v ws ih =>
    obtain ⟨ds, first⟩ := listingOperands_cons v ws
    refine ih ?_
    simpa [listingOperands, first] using h

/-- Operands have no white space around them. -/
theorem trimSpaces_listingOperands (ws : List Word) : trimSpaces (listingOperands ws) = listingOperands ws := by
  refine trimSpaces_eq_self (fun d h => ?_)
    fun _ h => not_isSpaceChar_of_plain (isPlainChar_of_getLast?_listingOperands h)
  cases ws with
  | nil => simp [listingOperands] at h
  | cons w ws =>
    obtain ⟨ds, first⟩ := listingOperands_cons w ws
    obtain rfl : '0' = d := by simpa [first] using h
    rfl

/-! ### Lines -/

/-- The mnemonic of a command's line, `.word` for an illegal header (R80). -/
def lineMnemonic : Command → List Char
  | .legal i => mnemonicText i
  | .illegal _ => ['.', 'w', 'o', 'r', 'd']

/-- The operands of a command's line (R80). -/
def lineOperands : Command → List Word
  | .legal i => encodePayload i
  | .illegal h => [h]

theorem listing_eq (c : Command) : listing c = lineMnemonic c ++ ' ' :: listingOperands (lineOperands c) := by
  cases c <;> rfl

theorem lineMnemonic_ne_nil (c : Command) : lineMnemonic c ≠ [] := by
  cases c with
  | legal i => cases i <;> simp [lineMnemonic, mnemonicText]
  | illegal h => simp [lineMnemonic]

theorem isPlainChar_of_mem_lineMnemonic {cmd : Command} {c : Char} (h : c ∈ lineMnemonic cmd) :
    isPlainChar c = true := by
  have plain : (lineMnemonic cmd).all isPlainChar = true := by
    cases cmd with
    | legal i => cases i <;> rfl
    | illegal h => rfl
  exact List.all_eq_true.mp plain c h

/-- A listing's line holds neither the start of a comment nor the end of the line. -/
theorem mem_listing {cmd : Command} {c : Char} (h : c ∈ listing cmd) : c ≠ ';' ∧ c ≠ '\n' := by
  have chars : isPlainChar c = true ∨ c = ',' ∨ c = ' ' := by
    rw [listing_eq, List.mem_append, List.mem_cons] at h
    rcases h with h | h | h
    · exact .inl (isPlainChar_of_mem_lineMnemonic h)
    · exact .inr (.inr h)
    · exact mem_listingOperands h
  rcases chars with plain | rfl | rfl
  · constructor <;> rintro rfl <;> simp [isPlainChar] at plain
  · decide
  · decide

/-- A listing's line without the white space around it: the mnemonic, and after it nothing, or white space and the
operands. -/
theorem trimSpaces_listing (c : Command) : ∃ tail, trimSpaces (listing c) = lineMnemonic c ++ tail ∧
    tail.takeWhile (fun d => !isSpaceChar d) = [] ∧ trimSpaces tail = listingOperands (lineOperands c) := by
  have plain : ∀ d ∈ lineMnemonic c, isSpaceChar d = false :=
    fun _ h => not_isSpaceChar_of_plain (isPlainChar_of_mem_lineMnemonic h)
  rw [listing_eq]
  cases lineOperands c with
  | nil =>
    refine ⟨[], ?_, rfl, rfl⟩
    rw [listingOperands, trimSpaces_append_space, List.append_nil]
    exact trimSpaces_eq_self (fun d h => plain d (List.mem_of_head? h)) fun d h => plain d (List.mem_of_getLast? h)
  | cons w ws =>
    refine ⟨' ' :: listingOperands (w :: ws), trimSpaces_eq_self (fun d h => plain d ?_) (fun d h => ?_), rfl,
      (trimSpaces_space_cons _).trans (trimSpaces_listingOperands _)⟩
    · rw [List.head?_append_of_ne_nil _ (lineMnemonic_ne_nil c)] at h
      exact List.mem_of_head? h
    · obtain ⟨ds, first⟩ := listingOperands_cons w ws
      refine not_isSpaceChar_of_plain (isPlainChar_of_getLast?_listingOperands (ws := w :: ws) ?_)
      simpa [first] using h

/-- The words of a command are assembled from the mnemonic and the operands of its line (R80). -/
theorem assembleCommand_line (c : Command) :
    assembleCommand (lineMnemonic c) (lineOperands c) = some (encodeCommand c) := by
  cases c with
  | illegal h => rfl
  | legal i =>
    cases i with
    | setstate ws cur => simp [assembleCommand, lineMnemonic, lineOperands, mnemonicText, encodeCommand, encode,
        encodeHeader, encodePayload]
    | _ => rfl

/-- A command's line is assembled into the command's words (R80). -/
theorem assembleLine_listing (c : Command) : assembleLine (listing c) = some (encodeCommand c) := by
  obtain ⟨tail, text, mnemonicEnds, operands⟩ := trimSpaces_listing c
  have noComment : (listing c).takeWhile (fun d => d != ';') = listing c :=
    List.takeWhile_eq_self_iff.mpr fun d h => by simpa using (mem_listing h).1
  have mnemonic : (lineMnemonic c ++ tail).takeWhile (fun d => !isSpaceChar d) = lineMnemonic c := by
    rw [List.takeWhile_append_of_pos, mnemonicEnds, List.append_nil]
    intro d h
    simp [not_isSpaceChar_of_plain (isPlainChar_of_mem_lineMnemonic h)]
  simp only [assembleLine, noComment, text, mnemonic, List.append_eq_nil_iff, lineMnemonic_ne_nil, false_and, if_false,
    List.drop_left, operands, parseOperands_listingOperands, assembleCommand_line]

/-- The lines of a list of commands are assembled one by one; after the last newline stands a blank line. -/
theorem allSome_assembleLine_listingText (cs : List Command) :
    allSome ((splitAtChar '\n' (listingText cs)).map assembleLine) = some (cs.map encodeCommand ++ [[]]) := by
  induction cs with
  | nil => rfl
  | cons c cs ih =>
    rw [listingText, splitAtChar_append (fun h => (mem_listing h).2 rfl), List.map_cons, assembleLine_listing, allSome,
      ih]
    rfl

end Sys2Proof.Machine

end

/-! ## The statement of the encoding family on the assembler -/

section

open Sys2Proof Sys2Proof.Machine

/-- Settles O52: the text is cut into the commands' lines, and each line is assembled into its command's words (log
entry 10). -/
theorem assemblerEncodesEveryListing : Obligations.AssemblerEncodesEveryListing := by
  intro cs
  rw [assemble, allSome_assembleLine_listingText]
  simp [List.flatMap_def]

end

/-! ## The expansion of a seed: closed form, parity, and the step of the running seed -/

section

namespace Sys2Proof.Machine

/-- The closed form of a term of the expansion (R92 (a)). -/
theorem seedTerm_eq_ofNat (x : Word) (k : Nat) :
    seedTerm x k = BitVec.ofNat 32 (1313 ^ k * x.toNat + 88897 * ∑ j ∈ Finset.range k, 1313 ^ j) := by
  induction k with
  | zero => simp [seedTerm]
  | succ k ih =>
    have horner : 1313 ^ (k + 1) * x.toNat + 88897 * ∑ j ∈ Finset.range (k + 1), 1313 ^ j =
        (1313 ^ k * x.toNat + 88897 * ∑ j ∈ Finset.range k, 1313 ^ j) * 1313 + 88897 := by
      rw [geom_sum_succ]
      ring
    rw [horner, BitVec.ofNat_add, BitVec.ofNat_mul, ← ih]
    rfl

/-- The value of the next running seed, reduced once at the end (R10, R90). -/
theorem toNat_lcgNext (x : Word) : (lcgNext x).toNat = (x.toNat * 1313 + 88897) % 2 ^ 32 := by
  rw [lcgNext, BitVec.toNat_add, BitVec.toNat_mul, Nat.mod_add_mod]
  rfl

/-- Multiplier and increment are odd, so a step of the running seed flips bit 0 (R92 (b)). -/
theorem lcgNext_getLsbD_zero (x : Word) : (lcgNext x).getLsbD 0 = !x.getLsbD 0 := by
  have parity : (lcgNext x).toNat % 2 = (x.toNat + 1) % 2 := by
    rw [toNat_lcgNext]
    omega
  simp only [BitVec.getLsbD, Nat.testBit_zero, parity, ← decide_not, decide_eq_decide]
  omega

/-- The terms of even index have the parity of the seed, those of odd index the other (R92 (b)). -/
theorem seedTerm_getLsbD_zero (x : Word) (k : Nat) :
    (seedTerm x k).getLsbD 0 = (x.getLsbD 0 ^^ decide (k % 2 = 1)) := by
  induction k with
  | zero => simp [seedTerm]
  | succ k ih =>
    rw [seedTerm_succ, lcgNext_getLsbD_zero, ih]
    rcases Nat.mod_two_eq_zero_or_one k with even | odd
    · simp [even, Nat.succ_mod_two_eq_one_iff.mpr even]
    · simp [odd, Nat.succ_mod_two_eq_zero_iff.mpr odd]

/-- The running seed before a step: the increment taken off, times the inverse of the multiplier modulo 2^32. -/
def lcgPrev (y : Word) : Word := (y - lcgInc) * 160284385

/-- A step of the running seed can be taken back and forth (R92 (c)). -/
theorem lcgNext_bijective : Function.Bijective lcgNext := by
  have inverse : lcgMul * 160284385 = 1 := by decide
  refine Function.bijective_iff_has_inverse.mpr ⟨lcgPrev, fun x => ?_, fun y => ?_⟩
  · rw [lcgPrev, lcgNext, BitVec.add_sub_cancel, BitVec.mul_assoc, inverse, mul_one]
  · rw [lcgPrev, lcgNext, BitVec.mul_assoc, BitVec.mul_comm 160284385, inverse, mul_one, BitVec.sub_add_cancel]

/-- Different seeds give different files: word 0 is the seed (R92 (c)). -/
theorem seedfill_ne_of_ne (w v : WordFile) {x y : Word} (ne : x ≠ y) : seedfill w x ≠ seedfill v y := by
  intro same
  have word0 : (seedfill w x)[0] = (seedfill v y)[0] := by rw [same]
  rw [seedfill_getElem, seedfill_getElem] at word0
  exact ne word0

/-- No seed gives the all-zero file: words 0 and 1 differ in bit 0 (R92 (d)). -/
theorem seedfill_ne_zero (w : WordFile) (x : Word) : seedfill w x ≠ WordFile.zero := by
  intro zero
  have word0 : seedTerm x 0 = 0 := by rw [← seedfill_getElem w x 0 (by decide), zero]; rfl
  have word1 : seedTerm x 1 = 0 := by rw [← seedfill_getElem w x 1 (by decide), zero]; rfl
  have flipped := lcgNext_getLsbD_zero (seedTerm x 0)
  rw [← seedTerm_succ, word0, word1] at flipped
  simp at flipped

/-- One SEED on any two states leaves equal blocks and gives the same response (R93 (a)). -/
theorem seed_sameBlock (x : Word) (s t : State) :
    ∃ s' t', runCommand (.legal (.seed x)) s = .next s' ∧ runCommand (.legal (.seed x)) t = .next t' ∧
      s'.sameBlock t' ∧ s'.out = s.out ++ [.ok []] ∧ t'.out = t.out ++ [.ok []] := by
  have file : seedfill s.w x = seedfill t.w x := by rw [seedfill_eq_seedFile, seedfill_eq_seedFile]
  exact ⟨_, _, exec_seed x s, exec_seed x t, ⟨file, rfl, rfl⟩, rfl, rfl⟩

/-- The words of the file SEEDFILL writes, in order (R90). -/
theorem seedfill_toList (w : WordFile) (x : Word) : (seedfill w x).toList = (List.range 25).map (seedTerm x) := by
  apply List.ext_getElem
  · simp
  · intro k hk _
    simp [seedfill_getElem]

end Sys2Proof.Machine

end

/-! ## The statements of the seeding family -/

section

open Sys2Proof Sys2Proof.Machine

/-- Settles O26: the loop of SEEDFILL has written the terms of the expansion. -/
theorem seedfillWritesTheSeedSequence : Obligations.SeedfillWritesTheSeedSequence :=
  fun w s k => seedfill_getElem w s k.val k.isLt

/-- Settles O27: SEED's next state, with the words of the file SEEDFILL writes. -/
theorem seedCompletesFromEveryState : Obligations.SeedCompletesFromEveryState :=
  fun x s => ⟨rfl, _, exec_seed x s, fun k => seedfill_getElem s.w x k.val k.isLt, rfl, rfl, rfl, rfl⟩

/-- Settles O28: each clause is a property of the terms of the expansion, which are the words SEEDFILL writes. -/
theorem seedSequenceProperties : Obligations.SeedSequenceProperties := by
  refine ⟨?closedForm, ?alternates, ?parity, lcgNext_bijective,
    fun w s => ⟨seedfill_getElem w s 0 (by decide), seedfill_getElem w s 1 (by decide)⟩,
    fun w v _ _ ne => seedfill_ne_of_ne w v ne, seedfill_ne_zero, ?seedZero, fun x s => ⟨_, exec_seed x s, rfl⟩⟩
  case closedForm =>
    intro w s k
    rw [seedfill_getElem, seedTerm_eq_ofNat]
  case alternates =>
    intro w s k
    rw [seedfill_getElem, seedfill_getElem, seedTerm_succ, lcgNext_getLsbD_zero]
  case parity =>
    intro w s k
    rw [seedfill_getElem, seedTerm_getLsbD_zero]
  case seedZero =>
    intro w
    simp only [seedfill_getElem]
    decide

/-- Settles O29: SEED leaves equal blocks, which answer every further list of commands equally (R27); and GETSTATE
returns the file of the expansion and the cursor SEED leaves. -/
theorem seedingIsDeterministicAndVisible : Obligations.SeedingIsDeterministicAndVisible := by
  refine ⟨fun x cs s t => ?deterministic, fun x s => ?visible⟩
  case deterministic =>
    obtain ⟨s₁, t₁, seeded_s, seeded_t, same, out_s, out_t⟩ := seed_sameBlock x s t
    obtain ⟨s', t', rs, ran_s, ran_t, outs, outt, _, same'⟩ := equalBlocksAnswerEqually cs s₁ t₁ same
    refine ⟨s', t', .ok [] :: rs, ?_, ?_, same', ?_, ?_⟩
    · rw [runCommands_cons_of_next seeded_s, ran_s]
    · rw [runCommands_cons_of_next seeded_t, ran_t]
    · rw [outs, out_s, List.append_assoc, List.singleton_append]
    · rw [outt, out_t, List.append_assoc, List.singleton_append]
  case visible =>
    refine ⟨_, (runCommands_cons_of_next (c := .legal (.seed x)) (exec_seed x s) _).trans
      (runCommands_cons_of_next (c := .legal .getstate) (exec_getstate _) []), ?_⟩
    simp only [memReadBlock, seedfill_toList, List.append_assoc, List.singleton_append]

end

/-! ## The twist: each word of the new file, linearity, and where it runs -/

section

namespace Sys2Proof.Machine

/-- `TW` with the selection of `MAG` written out: bit 0 of the replaced word decides (R100). -/
theorem tw_eq_ite (f x : Word) :
    tw f x = f ^^^ (x >>> 1) ^^^ (if x &&& 1 = 1 then 0x8ebfd028 else 0x00000000) := by
  have bit0 : x.getLsbD 0 = true ↔ x &&& 1 = 1 := by
    rw [show (1 : Word) = BitVec.twoPow 32 0 from rfl, BitVec.and_twoPow]
    cases x.getLsbD 0 <;> simp [BitVec.twoPow]
  simp only [tw, mag, bit0, twistA]

/-- `MAG` is linear in its bit (R100). -/
theorem mag_xor (a b : Bool) : mag (a ^^ b) = mag a ^^^ mag b := by
  cases a <;> cases b <;> rfl

/-- `TW` is linear in the feedback word and the replaced word together (R104 (b)). -/
theorem tw_xor (f g x y : Word) : tw (f ^^^ g) (x ^^^ y) = tw f x ^^^ tw g y := by
  simp only [tw, BitVec.getLsbD_xor, mag_xor, BitVec.ushiftRight_xor_distrib]
  ac_rfl

/-- The shift clears bit 31, and `MAG[1]` has it set (R104 (c)). -/
theorem tw_getLsbD_31 (f x : Word) : (tw f x).getLsbD 31 = (f.getLsbD 31 ^^ x.getLsbD 0) := by
  have magBit (b : Bool) : (mag b).getLsbD 31 = b := by cases b <;> rfl
  have shifted : (x >>> 1).getLsbD 31 = false := by simp
  simp only [tw, BitVec.getLsbD_xor, magBit, shifted, Bool.xor_false]

/-- The first range after `k` turns on the file `w`: the words below `k` are replaced from old words, the words from
`k` on are old (R101, R102). -/
def TwistLowInv (w : WordFile) (k : Nat) (b : WordFile) : Prop :=
  (∀ (m : Nat) (_ : m < 18), m < k → b[m] = tw w[m + 7] w[m]) ∧
  ∀ (m : Nat) (_ : m < 25), k ≤ m → b[m] = w[m]

/-- A turn of the first range reads two words that are still old (R102). -/
theorem twistLowStep_keeps_inv (w : WordFile) (k : Nat) (hk : k < 18) (b : WordFile) (h : TwistLowInv w k b) :
    TwistLowInv w (k + 1) (twistLowStep b ⟨k, hk⟩) := by
  obtain ⟨replaced, old⟩ := h
  refine ⟨fun m hm below => ?_, fun m hm above => ?_⟩
  · rcases Nat.lt_succ_iff_lt_or_eq.mp below with earlier | rfl
    · simpa [twistLowStep, Vector.getElem_set_ne, earlier.ne'] using replaced m hm earlier
    · simp [twistLowStep, old m (by omega) le_rfl, old (m + 7) (by omega) (by omega)]
  · simpa [twistLowStep, Vector.getElem_set_ne, (show k ≠ m by omega)] using old m hm (by omega)

/-- The second range after `k` turns on the file `v` of the first: its first `k` words are replaced, every other word
is as in `v` (R101, R102). -/
def TwistHighInv (v : WordFile) (k : Nat) (b : WordFile) : Prop :=
  (∀ (j : Nat) (_ : j < 7), j < k → b[j + 18] = tw v[j] v[j + 18]) ∧
  ∀ (m : Nat) (_ : m < 25), m < 18 ∨ k + 18 ≤ m → b[m] = v[m]

/-- A turn of the second range reads a word of the first range and the word it replaces (R101, R102). -/
theorem twistHighStep_keeps_inv (v : WordFile) (k : Nat) (hk : k < 7) (b : WordFile) (h : TwistHighInv v k b) :
    TwistHighInv v (k + 1) (twistHighStep b ⟨k, hk⟩) := by
  obtain ⟨replaced, kept⟩ := h
  refine ⟨fun j hj below => ?_, fun m hm outside => ?_⟩
  · rcases Nat.lt_succ_iff_lt_or_eq.mp below with earlier | rfl
    · simpa [twistHighStep, Vector.getElem_set_ne, earlier.ne'] using replaced j hj earlier
    · simp [twistHighStep, kept j (by omega) (by omega), kept (j + 18) (by omega) (by omega)]
  · simpa [twistHighStep, Vector.getElem_set_ne, (show k + 18 ≠ m by omega)] using kept m hm (by omega)

/-- The pass of the first range, ended. -/
theorem twistLow_inv (w : WordFile) : TwistLowInv w 18 ((List.finRange 18).foldl twistLowStep w) :=
  foldl_finRange_invariant twistLowStep (TwistLowInv w) w ⟨by simp, by simp⟩ (twistLowStep_keeps_inv w)

/-- The pass of the second range, ended. -/
theorem twistHigh_inv (v : WordFile) : TwistHighInv v 7 ((List.finRange 7).foldl twistHighStep v) :=
  foldl_finRange_invariant twistHighStep (TwistHighInv v) v ⟨by simp, by simp⟩ (twistHighStep_keeps_inv v)

/-- Words 0 to 17 of the twisted file: both words read are old (R102). -/
theorem twist_getElem_low (w : WordFile) (i : Nat) (hi : i < 18) : (twist w)[i] = tw w[i + 7] w[i] := by
  obtain ⟨replaced, _⟩ := twistLow_inv w
  obtain ⟨_, kept⟩ := twistHigh_inv ((List.finRange 18).foldl twistLowStep w)
  exact (kept i (by omega) (.inl hi)).trans (replaced i hi hi)

/-- Words 18 to 24 of the twisted file: the feedback word is new, the replaced word is old (R102). -/
theorem twist_getElem_high (w : WordFile) (j : Nat) (hj : j < 7) :
    (twist w)[j + 18] = tw (twist w)[j] w[j + 18] := by
  obtain ⟨_, old⟩ := twistLow_inv w
  obtain ⟨replaced, kept⟩ := twistHigh_inv ((List.finRange 18).foldl twistLowStep w)
  have word := replaced j hj hj
  rw [old (j + 18) (by omega) (by omega), ← kept j (by omega) (.inl (by omega))] at word
  exact word

/-- A file whose words satisfy the two equations of TWIST is the twisted file (R101, R102). -/
theorem twist_eq_of_words {w v : WordFile} (low : ∀ (i : Nat) (_ : i < 18), v[i] = tw w[i + 7] w[i])
    (high : ∀ (j : Nat) (_ : j < 7), v[j + 18] = tw v[j] w[j + 18]) : twist w = v := by
  apply Vector.ext
  intro m hm
  rcases Nat.lt_or_ge m 18 with first | second
  · rw [twist_getElem_low w m first, low m first]
  · obtain ⟨j, rfl⟩ := Nat.exists_eq_add_of_le' second
    rw [twist_getElem_high w j (by omega), high j (by omega), twist_getElem_low w j (by omega), low j (by omega)]

/-- The all-zero file is a fixed point of TWIST (R104 (a)). -/
theorem twist_zero : twist WordFile.zero = WordFile.zero := by
  have zero (m : Nat) (hm : m < 25) : WordFile.zero[m] = 0 := by simp [WordFile.zero]
  refine twist_eq_of_words (fun i hi => ?_) (fun j hj => ?_)
  · rw [zero i (by omega), zero (i + 7) (by omega)]
    rfl
  · rw [zero j (by omega), zero (j + 18) (by omega)]
    rfl

/-- The pass is linear over GF(2) (R104 (b)). -/
theorem twist_xor (u v : WordFile) :
    twist (Vector.zipWith (· ^^^ ·) u v) = Vector.zipWith (· ^^^ ·) (twist u) (twist v) := by
  refine twist_eq_of_words (fun i hi => ?_) (fun j hj => ?_)
  · simp only [Vector.getElem_zipWith, twist_getElem_low, hi, tw_xor]
  · simp only [Vector.getElem_zipWith, twist_getElem_high, hj, tw_xor]

/-- The all-ones file: each word of the second range takes the new word of the first, and is all ones (R104 (f)). -/
theorem twist_ones_getElem (k : Nat) (hk : k < 25) :
    (twist (Vector.replicate 25 0xffffffff))[k] = if k < 18 then 0x0ebfd028 else 0xffffffff := by
  have low (i : Nat) (hi : i < 18) : (twist (Vector.replicate 25 0xffffffff))[i] = 0x0ebfd028 := by
    rw [twist_getElem_low _ i hi, Vector.getElem_replicate, Vector.getElem_replicate]
    rfl
  split
  case isTrue first => exact low k first
  case isFalse second =>
    obtain ⟨j, rfl⟩ := Nat.exists_eq_add_of_le' (Nat.le_of_not_lt second)
    rw [twist_getElem_high _ j (by omega), low j (by omega), Vector.getElem_replicate]
    rfl

end Sys2Proof.Machine

end

/-! ## The statements of the twist family -/

section

open Sys2Proof Sys2Proof.Machine

/-- Settles O30: the words of the twisted file, from the invariants of the two loops, with `MAG` written out. -/
theorem twistRegeneratesInPlace : Obligations.TwistRegeneratesInPlace := by
  intro w
  refine ⟨fun i => ?_, fun j => ?_⟩
  · rw [twist_getElem_low w i.val i.isLt, tw_eq_ite]
  · rw [twist_getElem_high w j.val j.isLt, tw_eq_ite]

/-- Settles O31: linearity and the two files follow from the words of the twisted file and the linearity of `TW`. -/
theorem twistIsLinear : Obligations.TwistIsLinear :=
  ⟨twist_zero, twist_xor, tw_getLsbD_31, fun k => twist_ones_getElem k.val k.isLt⟩

/-- Settles O32: of what running a command does to the block, three cases write the word file. -/
theorem twistRunsOnlyInDrawAtCursor24 : Obligations.TwistRunsOnlyInDrawAtCursor24 := by
  intro c s t ran changed
  rcases runCommand_block ran with
    ⟨same, _⟩ | ⟨x, seed, _⟩ | ⟨ws, cur, setstate, loaded, _⟩ | ⟨draws, hi, _, at24, twisted, wrapped⟩ |
    ⟨_, _, _, _, same, _⟩
  · exact absurd same changed
  · exact .inl ⟨x, seed⟩
  · exact .inr (.inl ⟨ws, cur, setstate, loaded⟩)
  · exact .inr (.inr ⟨draws, hi, BitVec.eq_of_toNat_eq at24, twisted, wrapped⟩)
  · exact absurd same changed

end

/-! ## The binary64 pattern of a word: its fields and its value -/

section

namespace Sys2Proof.Machine

/-- The pattern of a word that is not 0, put together from its three fields (R115). -/
theorem f64_eq_append {y : Word} (nonzero : y ≠ 0) :
    f64 y = (0 : BitVec 1) ++ BitVec.ofNat 11 (991 + y.toNat.log2) ++
      BitVec.ofNat 52 ((y.toNat - 2 ^ y.toNat.log2) * 2 ^ (52 - y.toNat.log2)) :=
  if_neg nonzero

/-- The most significant 1 bit of a word that is not 0 is one of its 32 bits. -/
theorem log2_toNat_lt {y : Word} (nonzero : y ≠ 0) : y.toNat.log2 < 32 :=
  (Nat.log2_lt (BitVec.toNat_ne_iff_ne.mpr nonzero)).mpr y.isLt

/-- The fraction of R115 fits in its field: below its leading 1 bit a word has `p` bits, moved up by `52 - p`. -/
theorem f64_fraction_lt {y : Word} (nonzero : y ≠ 0) :
    (y.toNat - 2 ^ y.toNat.log2) * 2 ^ (52 - y.toNat.log2) < 2 ^ 52 := by
  have below : y.toNat - 2 ^ y.toNat.log2 < 2 ^ y.toNat.log2 := by
    have := @Nat.lt_log2_self y.toNat
    omega
  have small := log2_toNat_lt nonzero
  calc (y.toNat - 2 ^ y.toNat.log2) * 2 ^ (52 - y.toNat.log2)
      < 2 ^ y.toNat.log2 * 2 ^ (52 - y.toNat.log2) := Nat.mul_lt_mul_of_pos_right below (Nat.two_pow_pos _)
    _ = 2 ^ 52 := by rw [← pow_add]; congr 1; omega

/-- The exponent field of F64 (R115). -/
theorem binary64Exponent_f64 {y : Word} (nonzero : y ≠ 0) : binary64Exponent (f64 y) = 991 + y.toNat.log2 := by
  have small := log2_toNat_lt nonzero
  rw [binary64Exponent, f64_eq_append nonzero, BitVec.extractLsb'_append_eq_of_le le_rfl, Nat.sub_self,
    BitVec.extractLsb'_append_eq_right, BitVec.toNat_ofNat, Nat.mod_eq_of_lt (by omega)]

/-- The fraction field of F64 (R115). -/
theorem binary64Fraction_f64 {y : Word} (nonzero : y ≠ 0) :
    binary64Fraction (f64 y) = (y.toNat - 2 ^ y.toNat.log2) * 2 ^ (52 - y.toNat.log2) := by
  rw [binary64Fraction, f64_eq_append nonzero, BitVec.extractLsb'_append_eq_right, BitVec.toNat_ofNat,
    Nat.mod_eq_of_lt (f64_fraction_lt nonzero)]

/-- F64 is never negative (R115). -/
theorem f64_getLsbD_63 (y : Word) : (f64 y).getLsbD 63 = false := by
  by_cases zero : y = 0
  · rw [zero]; rfl
  · rw [f64_eq_append zero, BitVec.getLsbD_append, BitVec.getLsbD_append]
    rfl

/-- Bits 20 to 0 of F64 are 0: the fraction is moved up by at least 21 bits (R115). -/
theorem f64_extractLsb'_low (y : Word) : (f64 y).extractLsb' 0 21 = 0 := by
  by_cases zero : y = 0
  · rw [zero]; rfl
  · have small := log2_toNat_lt zero
    have aligned : 2 ^ 21 ∣ (y.toNat - 2 ^ y.toNat.log2) * 2 ^ (52 - y.toNat.log2) :=
      Dvd.dvd.mul_left (Nat.pow_dvd_pow 2 (by omega)) _
    apply BitVec.eq_of_toNat_eq
    rw [f64_eq_append zero, BitVec.extractLsb'_append_eq_of_add_le (by decide), BitVec.extractLsb'_toNat,
      BitVec.toNat_ofNat, Nat.mod_eq_of_lt (f64_fraction_lt zero), Nat.shiftRight_zero, Nat.mod_eq_zero_of_dvd aligned]
    rfl

/-- The value of the fields of R115: `2^(p - 32)` times `1 + (n - 2^p) / 2^p` is `n * 2^-32`. -/
theorem scaled_significand {n p : Nat} (high : 2 ^ p ≤ n) (small : p < 32) :
    (2 : ℚ) ^ (((991 + p : ℕ) : ℤ) - 1023) * (1 + (((n - 2 ^ p) * 2 ^ (52 - p) : ℕ) : ℚ) / 2 ^ 52) = n / 2 ^ 32 := by
  have scale : (2 : ℚ) ^ (((991 + p : ℕ) : ℤ) - 1023) = 2 ^ p / 2 ^ 32 := by
    rw [show ((991 + p : ℕ) : ℤ) - 1023 = (p : ℤ) - (32 : ℕ) by push_cast; ring,
      zpow_sub₀ (by norm_num), zpow_natCast, zpow_natCast]
  have width : (2 : ℚ) ^ 52 = 2 ^ (52 - p) * 2 ^ p := by rw [← pow_add]; congr 1; omega
  rw [scale, width]
  push_cast [Nat.cast_sub high]
  field_simp
  ring

/-- The value of F64 is exactly the word times 2^-32 (R115). -/
theorem binary64Value_f64 (y : Word) : binary64Value (f64 y) = some ((y.toNat : ℚ) / 2 ^ 32) := by
  by_cases zero : y = 0
  · simp [zero, f64, binary64Value]
  · have small := log2_toNat_lt zero
    have exponent := binary64Exponent_f64 zero
    have pattern : f64 y ≠ 0 := by
      intro h
      rw [h] at exponent
      have : binary64Exponent 0 = 0 := rfl
      omega
    have normal : 1 ≤ binary64Exponent (f64 y) ∧ binary64Exponent (f64 y) ≤ 2046 := by omega
    rw [binary64Value, if_neg pattern, if_pos normal, exponent, binary64Fraction_f64 zero, f64_getLsbD_63,
      if_neg (by decide), one_mul,
      scaled_significand (Nat.log2_self_le (BitVec.toNat_ne_iff_ne.mpr zero)) small]

/-- The two data words of NEXTF, high half before low half, are the pattern (R114). -/
theorem append_halves_eq (f : BitVec 64) : (f.extractLsb' 32 32 ++ f.extractLsb' 0 32 : BitVec 64) = f :=
  (BitVec.extractLsb'_append_extractLsb'_eq_extractLsb' rfl).trans BitVec.extractLsb'_eq_self

end Sys2Proof.Machine

end

/-! ## The temper stages: their bits, linearity, bijectivity -/

section

namespace Sys2Proof.Machine

/-- What both stages of TEMPER are: a word, flipped where the word shifted left by `n` and the mask have a 1 (R110). -/
def maskedShiftXor (n : Nat) (mask x : Word) : Word := x ^^^ ((x <<< n) &&& mask)

/-- Stage 1 (R110). -/
theorem temperStage1_eq (x : Word) : temperStage1 x = maskedShiftXor temperS temperB x := rfl

/-- Stage 2 (R110). -/
theorem temperStage2_eq (x : Word) : temperStage2 x = maskedShiftXor temperT temperC x := rfl

/-- Bit `k` of a stage: flipped when the mask has it and bit `k - n` is 1 (R119 (a)). -/
theorem maskedShiftXor_getLsbD (n : Nat) (mask x : Word) {k : Nat} (hk : k < 32) :
    (maskedShiftXor n mask x).getLsbD k =
      (x.getLsbD k ^^ (decide (n ≤ k) && mask.getLsbD k && x.getLsbD (k - n))) := by
  simp only [maskedShiftXor, BitVec.getLsbD_xor, BitVec.getLsbD_and, BitVec.getLsbD_shiftLeft, hk, decide_true,
    Bool.true_and, ← decide_not, Nat.not_lt]
  rw [Bool.and_right_comm]

/-- A stage is linear over GF(2) (R119 (d)). -/
theorem maskedShiftXor_xor (n : Nat) (mask x y : Word) :
    maskedShiftXor n mask (x ^^^ y) = maskedShiftXor n mask x ^^^ maskedShiftXor n mask y := by
  have masked (a b : Word) : (a ^^^ b) &&& mask = (a &&& mask) ^^^ (b &&& mask) := by
    apply BitVec.eq_of_getLsbD_eq
    intro k _
    simp [Bool.and_xor_distrib_right]
  simp only [maskedShiftXor, BitVec.shiftLeft_xor_distrib, masked]
  ac_rfl

/-- A stage with a shift can be undone, bit by bit from bit 0: bit `k` was flipped by a lower bit (R119 (d)). -/
theorem maskedShiftXor_injective {n : Nat} (shifts : 0 < n) (mask : Word) :
    Function.Injective (maskedShiftXor n mask) := by
  intro x y same
  apply BitVec.eq_of_getLsbD_eq
  intro k
  induction k using Nat.strong_induction_on with
  | _ k lower =>
    intro hk
    have bit : (maskedShiftXor n mask x).getLsbD k = (maskedShiftXor n mask y).getLsbD k := by rw [same]
    rw [maskedShiftXor_getLsbD n mask x hk, maskedShiftXor_getLsbD n mask y hk] at bit
    by_cases reached : n ≤ k
    · rw [lower (k - n) (by omega) (by omega)] at bit
      exact Bool.xor_left_inj.mp bit
    · simpa [reached] using bit

/-- TEMPER is linear over GF(2) (R119 (d)). -/
theorem temper_xor (x y : Word) : temper (x ^^^ y) = temper x ^^^ temper y := by
  simp only [temper, temperStage1_eq, temperStage2_eq, maskedShiftXor_xor]

/-- TEMPER is injective, hence a bijection of the finitely many words (R119 (d)). -/
theorem temper_bijective : Function.Bijective temper :=
  Finite.injective_iff_bijective.mp
    ((maskedShiftXor_injective (by decide : 0 < temperT) temperC).comp
      (maskedShiftXor_injective (by decide : 0 < temperS) temperB))

/-- The bits that stage 1 can flip: the 1 bits of `B` that the shift reaches (R119 (b)). -/
theorem temperB_bits (k : Fin 32) : (decide (temperS ≤ k.val) && temperB.getLsbD k.val) =
    decide (k.val ∈ [8, 10, 13, 16, 17, 19, 20, 22, 24, 25, 27, 29]) := by
  revert k
  decide

/-- The bits that stage 2 can flip: the 1 bits of `C` that the shift reaches (R119 (b)). -/
theorem temperC_bits (k : Fin 32) : (decide (temperT ≤ k.val) && temperC.getLsbD k.val) =
    decide (k.val ∈ [16, 17, 19, 23, 24, 25, 27, 28, 30, 31]) := by
  revert k
  decide

/-- Bit `k` of stage 1 (R119 (a), (b)). -/
theorem temperStage1_getLsbD (x : Word) (k : Fin 32) :
    (temperStage1 x).getLsbD k.val = (x.getLsbD k.val ^^
      (decide (k.val ∈ [8, 10, 13, 16, 17, 19, 20, 22, 24, 25, 27, 29]) && x.getLsbD (k.val - 7))) := by
  rw [temperStage1_eq, maskedShiftXor_getLsbD _ _ _ k.isLt, temperB_bits]
  rfl

/-- Bit `k` of stage 2 (R119 (a), (b)). -/
theorem temperStage2_getLsbD (y : Word) (k : Fin 32) :
    (temperStage2 y).getLsbD k.val = (y.getLsbD k.val ^^
      (decide (k.val ∈ [16, 17, 19, 23, 24, 25, 27, 28, 30, 31]) && y.getLsbD (k.val - 15))) := by
  rw [temperStage2_eq, maskedShiftXor_getLsbD _ _ _ k.isLt, temperC_bits]
  rfl

/-- The low byte of a word passes both stages: neither list has a bit below 8 (R119 (c)). -/
theorem temper_getLsbD_of_lt_8 (x : Word) (k : Fin 32) (low : k.val < 8) :
    (temper x).getLsbD k.val = x.getLsbD k.val := by
  have keep1 : k.val ∉ [8, 10, 13, 16, 17, 19, 20, 22, 24, 25, 27, 29] := by simp; omega
  have keep2 : k.val ∉ [16, 17, 19, 23, 24, 25, 27, 28, 30, 31] := by simp; omega
  rw [temper, temperStage2_getLsbD, temperStage1_getLsbD]
  simp only [keep1, keep2, decide_false, Bool.false_and, Bool.xor_false]

end Sys2Proof.Machine

end

/-! ## One draw: its next state, its data, and the draws after a seeding -/

section

namespace Sys2Proof.Machine

/-- The file a successful draw reads and leaves: twisted at cursor 24, else unchanged (R111). -/
def drawnFile (s : State) : WordFile := if s.cur.toNat = 24 then twist s.w else s.w

/-- The cursor a successful draw leaves and reads at: incremented first, 24 wrapping to 0 (R111). -/
def drawnIndex (s : State) : Nat := (s.cur.toNat + 1) % 25

/-- The cursor stays inside the file (R24). -/
theorem drawnIndex_lt (s : State) : drawnIndex s < 25 := Nat.mod_lt _ (by decide)

/-- The word a successful draw returns, tempered (R111). -/
def drawnWord (s : State) : Word := temper ((drawnFile s)[drawnIndex s]'(drawnIndex_lt s))

/-- A draw with `INIT = 1` and a legal cursor succeeds, with the twisting and the plain draw in one form
(R111). -/
theorem drawRespond_of_legal (data : Word → List Word) {s : State} (h : s.init = true) (hc : s.cur.toNat ≤ 24) :
    drawRespond data s = .next { s with
      w := drawnFile s, cur := BitVec.ofNat 32 (drawnIndex s), out := s.out ++ [.ok (data (drawnWord s))] } := by
  rcases Nat.eq_or_lt_of_le hc with at24 | below
  · rw [drawRespond_of_twist data h at24]
    simp [drawnWord, drawnFile, drawnIndex, at24]
  · have index : drawnIndex s = s.cur.toNat + 1 := Nat.mod_eq_of_lt (Nat.succ_lt_succ below)
    have cursor : s.cur + 1 = BitVec.ofNat 32 (s.cur.toNat + 1) := by bv_omega
    rw [drawRespond_of_plain data h below]
    simp only [drawnWord, drawnFile, index, below.ne, if_false, cursor]

/-- A draw with an OK response drew one word, of which the other draw commands would have made their own data (R111). -/
theorem drawRespond_of_ok {data : Word → List Word} {s t : State} {d : List Word} (h : drawRespond data s = .next t)
    (ok : t.out = s.out ++ [.ok d]) :
    ∃ y, d = data y ∧ ∀ data' : Word → List Word,
      drawRespond data' s = .next { t with out := s.out ++ [.ok (data' y)] } := by
  rcases drawRespond_cases data s with ⟨hi, e⟩ | ⟨hi, hc, e⟩ | ⟨hi, hc, e⟩ | ⟨hc, hi, e⟩ <;>
    obtain rfl := next_inj (e.symm.trans h)
  · simp at ok
  · simp at ok
  · exact ⟨_, by simpa using ok.symm, fun data' => drawRespond_of_twist data' hi hc⟩
  · exact ⟨_, by simpa using ok.symm, fun data' => drawRespond_of_plain data' hi hc⟩

/-- The fault of a draw command before the first SEED or SETSTATE (R141). -/
theorem exec_draw_of_uninit {i : Instr} (draws : isDraw i = true) {s : State} (h : s.init = false) :
    exec i s = .next { s with out := s.out ++ [.fault .uninitializedGenerator] } := by
  rw [exec_draw draws, drawRespond_of_uninit _ h, raise_eq]

/-- The fault of a draw command with a cursor above 24 (R143). -/
theorem exec_draw_of_cursor {i : Instr} (draws : isDraw i = true) {s : State} (h : s.init = true)
    (hc : 24 < s.cur.toNat) :
    exec i s = .next { s with out := s.out ++ [.fault .cursorOutOfRange] } := by
  rw [exec_draw draws, drawRespond_of_cursor _ h hc, raise_eq]

/-- The mask of NEXT31 leaves the low 31 bits (R113). -/
theorem and_int31Mask (y : Word) : y &&& int31Mask = BitVec.ofNat 32 (y.toNat % 2 ^ 31) := by
  apply BitVec.eq_of_toNat_eq
  rw [BitVec.toNat_and, BitVec.toNat_ofNat, Nat.mod_eq_of_lt (by omega)]
  exact Nat.and_two_pow_sub_one_eq_mod y.toNat 31

/-- The block after SEED with seed `x` and `k` successful draws: the file twisted before draws 1, 26, 51 and so on, the
cursor counting on from 24 (R116). -/
def AfterDraws (x : Word) (k : Nat) (s : State) : Prop :=
  s.init = true ∧ s.w = twistPow (seedFile x) ((k + 24) / 25) ∧ s.cur.toNat = (k + 24) % 25

/-- SEED leaves the block of no draws (R91). -/
theorem afterDraws_seed (x : Word) (s : State) :
    ∃ t, runCommand (.legal (.seed x)) s = .next t ∧ AfterDraws x 0 t :=
  ⟨_, exec_seed x s, rfl, seedfill_eq_seedFile s.w x, rfl⟩

/-- Only the equality of the blocks matters to the count of draws. -/
theorem AfterDraws.of_sameBlock {x : Word} {k : Nat} {s t : State} (h : AfterDraws x k s) (same : t.sameBlock s) :
    AfterDraws x k t := by
  obtain ⟨hw, hc, hi⟩ := same
  rwa [AfterDraws, hw, hc, hi]

/-- The file of the closed form, the case of no draws apart (R116). -/
theorem AfterDraws.w_eq {x : Word} {k : Nat} {s : State} (h : AfterDraws x k s) :
    s.w = if k = 0 then seedFile x else twistPow (seedFile x) ((k - 1) / 25 + 1) := by
  obtain ⟨_, file, _⟩ := h
  rcases k with _ | k
  · exact file
  · rw [file, show (k + 1 + 24) / 25 = k / 25 + 1 by omega]
    simp

/-- The cursor of the closed form, the case of no draws apart (R116). -/
theorem AfterDraws.cur_eq {x : Word} {k : Nat} {s : State} (h : AfterDraws x k s) :
    s.cur = if k = 0 then 24 else BitVec.ofNat 32 ((k - 1) % 25) := by
  obtain ⟨_, _, cursor⟩ := h
  rcases k with _ | k
  · exact BitVec.eq_of_toNat_eq cursor
  · rw [if_neg (by omega), Nat.add_sub_cancel]
    apply BitVec.eq_of_toNat_eq
    rw [cursor, BitVec.toNat_ofNat]
    omega

/-- After `k` draws the next one reads word `k mod 25` (R116). -/
theorem AfterDraws.drawnIndex_eq {x : Word} {k : Nat} {s : State} (h : AfterDraws x k s) :
    drawnIndex s = k % 25 := by
  obtain ⟨_, _, cursor⟩ := h
  rw [drawnIndex, cursor]
  omega

/-- After `k` draws the next one reads the file twisted `k / 25 + 1` times (R116). -/
theorem AfterDraws.drawnFile_eq {x : Word} {k : Nat} {s : State} (h : AfterDraws x k s) :
    drawnFile s = twistPow (seedFile x) (k / 25 + 1) := by
  obtain ⟨_, file, cursor⟩ := h
  rw [drawnFile, file, cursor]
  split
  case isTrue at24 => rw [show (k + 24) / 25 = k / 25 by omega]; rfl
  case isFalse below => rw [show (k + 24) / 25 = k / 25 + 1 by omega]

/-- After `k` draws the next one returns word `k mod 25` of the file twisted `k / 25 + 1` times, tempered (R116). -/
theorem AfterDraws.drawnWord_eq {x : Word} {k : Nat} {s : State} (h : AfterDraws x k s) :
    drawnWord s = temper ((twistPow (seedFile x) (k / 25 + 1))[k % 25]'(Nat.mod_lt _ (by decide))) := by
  simp only [drawnWord, h.drawnFile_eq, h.drawnIndex_eq]

/-- Draw number `k + 1` (R116). -/
theorem AfterDraws.draw {x : Word} {k : Nat} {s : State} (h : AfterDraws x k s) {d : Instr} (draws : isDraw d = true) :
    exec d s = .next { s with
      w := twistPow (seedFile x) (k / 25 + 1), cur := BitVec.ofNat 32 (k % 25),
      out := s.out ++ [.ok (drawData d (drawnWord s))] } := by
  rw [exec_draw draws, ← h.drawnFile_eq, ← h.drawnIndex_eq]
  obtain ⟨hi, _, cursor⟩ := h
  exact drawRespond_of_legal _ hi (by omega)

/-- A draw counts (R116). -/
theorem AfterDraws.succ_of_draw {x : Word} {k : Nat} {s t : State} (h : AfterDraws x k s) {d : Instr}
    (draws : isDraw d = true) (drawn : exec d s = .next t) : AfterDraws x (k + 1) t := by
  obtain rfl := next_inj ((h.draw draws).symm.trans drawn)
  obtain ⟨hi, _, _⟩ := h
  refine ⟨hi, ?_, ?_⟩
  · show _ = twistPow _ ((k + 25) / 25)
    rw [Nat.add_div_right _ (by decide)]
  · show (BitVec.ofNat 32 (k % 25)).toNat = (k + 25) % 25
    rw [BitVec.toNat_ofNat, Nat.add_mod_right, Nat.mod_eq_of_lt (by omega)]

/-- The draws of a list are those of its first command and those of the others. -/
theorem countDraws_cons (c : Command) (cs : List Command) : countDraws (c :: cs) = countDraws [c] + countDraws cs := by
  rw [← List.singleton_append, countDraws, List.filter_append, List.length_append]
  rfl

/-- A draw counts one, GETSTATE and an illegal header count nothing and leave the block (R116, R130, R142). -/
theorem AfterDraws.add_countDraws_singleton {x : Word} {k : Nat} {s t : State} (h : AfterDraws x k s) {c : Command}
    (mixture : isDrawCommand c = true ∨ isReadOnlyCommand c = true) (ran : runCommand c s = .next t) :
    AfterDraws x (k + countDraws [c]) t := by
  rcases mixture with draws | readOnly
  · have one : countDraws [c] = 1 := by simp [countDraws, draws]
    rw [one]
    cases c with
    | legal d => exact h.succ_of_draw draws ran
    | illegal g => simp [isDrawCommand] at draws
  · have zero : countDraws [c] = 0 := by
      match c, readOnly with
      | .illegal _, _ => rfl
      | .legal .getstate, _ => rfl
    rw [zero]
    exact h.of_sameBlock (runCommand_keeps_block_of_readOnly readOnly ran)

/-- Draws, GETSTATE and illegal headers in any mixture complete, and only the draws count (R116). -/
theorem AfterDraws.add_countDraws {x : Word} (cs : List Command)
    (mixture : ∀ c ∈ cs, isDrawCommand c = true ∨ isReadOnlyCommand c = true) {k : Nat} {s : State}
    (h : AfterDraws x k s) :
    ∃ t, runCommands cs s = .next t ∧ AfterDraws x (k + countDraws cs) t := by
  induction cs generalizing k s with
  | nil => exact ⟨s, rfl, h⟩
  | cons c cs ih =>
    obtain ⟨first, others⟩ := List.forall_mem_cons.mp mixture
    obtain ⟨u, _, ran, _⟩ := runCommand_next c s
    rw [runCommands_cons_of_next ran, countDraws_cons, ← Nat.add_assoc]
    exact ih others (h.add_countDraws_singleton first ran)

end Sys2Proof.Machine

end

/-! ## The statements of the draw family -/

section

open Sys2Proof Sys2Proof.Machine

/-- Settles O34: bit `k` of each stage, and no bit below 8 in either list. -/
theorem temperStagesFlipOnlyMaskBits : Obligations.TemperStagesFlipOnlyMaskBits :=
  fun x k => ⟨temperStage1_getLsbD x k, temperStage2_getLsbD (temperStage1 x) k, temper_getLsbD_of_lt_8 x k⟩

/-- Settles O35: both stages are linear and can be undone. -/
theorem temperIsLinearBijection : Obligations.TemperIsLinearBijection :=
  ⟨temper_xor, temper_bijective⟩

/-- Settles O36: the successful draw in one form, and the two faults. -/
theorem nextDrawsOneWord : Obligations.NextDrawsOneWord :=
  ⟨rfl, fun _ hi hc => (exec_draw rfl _).trans (drawRespond_of_legal _ hi hc), fun _ => exec_draw_of_uninit rfl,
    fun _ => exec_draw_of_cursor rfl⟩

/-- Settles O37: the same draw, whose mask is the remainder modulo 2^31. -/
theorem next31DrawsMaskedWord : Obligations.Next31DrawsMaskedWord := by
  refine ⟨rfl, fun s hi hc => ?_, fun _ => exec_draw_of_uninit rfl, fun _ => exec_draw_of_cursor rfl⟩
  have drawn := drawRespond_of_legal next31Data hi hc
  rw [next31Data, and_int31Mask] at drawn
  exact (exec_next31 s).trans drawn

/-- Settles O38: the same draw, whose two data words are the halves of the exact pattern. -/
theorem nextfDrawsExactFraction : Obligations.NextfDrawsExactFraction := by
  refine ⟨rfl, fun s hi hc => ?_, fun _ => exec_draw_of_uninit rfl, fun _ => exec_draw_of_cursor rfl⟩
  refine ⟨(f64 (drawnWord s)).extractLsb' 0 32, (f64 (drawnWord s)).extractLsb' 32 32, ?_,
    (exec_nextf s).trans (drawRespond_of_legal _ hi hc)⟩
  rw [append_halves_eq]
  exact binary64Value_f64 (drawnWord s)

/-- Settles O40: an OK response of NEXT comes from one drawn word, which is its data word. -/
theorem threeDrawsShareOneDraw : Obligations.ThreeDrawsShareOneDraw := by
  intro s t y h ok
  obtain ⟨drawn, data, others⟩ := drawRespond_of_ok ((exec_next s).symm.trans h) ok
  obtain rfl : y = drawn := by simpa [nextData] using data
  exact ⟨others next31Data, others nextfData⟩

/-- Settles O41: the value and the fields of F64, with `p` the index of the most significant 1 bit. -/
theorem f64EncodesExactValue : Obligations.F64EncodesExactValue := by
  refine ⟨rfl, fun y => ⟨binary64Value_f64 y, f64_getLsbD_63 y, f64_extractLsb'_low y, fun nonzero => ?_⟩⟩
  exact ⟨y.toNat.log2, Nat.log2_self_le (BitVec.toNat_ne_iff_ne.mpr nonzero), Nat.lt_log2_self,
    binary64Exponent_f64 nonzero, binary64Fraction_f64 nonzero⟩

/-- Settles O42: a remainder modulo 2^31, and a word below 2^32 over 2^32. -/
theorem drawResultsStayInRange : Obligations.DrawResultsStayInRange := by
  refine fun s t => ⟨fun d h ok => ?next31, fun lo hi h ok => ?nextf⟩
  case next31 =>
    obtain ⟨y, data, _⟩ := drawRespond_of_ok ((exec_next31 s).symm.trans h) ok
    obtain rfl : d = y &&& int31Mask := by simpa [next31Data] using data
    exact Nat.and_le_right
  case nextf =>
    obtain ⟨y, data, _⟩ := drawRespond_of_ok ((exec_nextf s).symm.trans h) ok
    obtain ⟨rfl, rfl⟩ : lo = (f64 y).extractLsb' 0 32 ∧ hi = (f64 y).extractLsb' 32 32 := by
      simpa [nextfData, halves] using data
    refine ⟨_, (congrArg binary64Value (append_halves_eq (f64 y))).trans (binary64Value_f64 y), by positivity, ?_⟩
    rw [div_lt_one (by positivity)]
    exact_mod_cast y.isLt

/-- Settles O33: a draw succeeds in one form; and the count of draws since the seeding gives the file and the cursor
before and after the next one. -/
theorem twistCadenceAfterSeed : Obligations.TwistCadenceAfterSeed := by
  refine ⟨fun d s draws hi hc => ?cadence, fun x cs d s mixture draws => ?closedForm⟩
  case cadence =>
    refine ⟨_, (exec_draw draws s).trans (drawRespond_of_legal _ hi hc), ?_⟩
    have at24 : s.cur.toNat = 24 ↔ s.cur = 24 := BitVec.toNat_inj (y := 24)
    simp only [drawnFile, at24]
  case closedForm =>
    obtain ⟨s₀, seeded, before⟩ := afterDraws_seed x s
    obtain ⟨t, ran, counted⟩ := before.add_countDraws cs mixture
    rw [Nat.zero_add] at counted
    refine ⟨t, _, (runCommands_cons_of_next seeded cs).trans ran, counted.w_eq, counted.cur_eq,
      counted.draw draws, rfl, rfl, ?_⟩
    simp only [counted.drawnWord_eq]

end

/-! ## State transfer and the dump: a snapshot's words, and the places of the dump's characters -/

section

namespace Sys2Proof

/-- The words of SETSTATE with the operands of a payload are the header and that payload (R64, R65 (b)). -/
theorem encode_setstate_of_payload (p : Vector Word 26) :
    encode (.setstate (Machine.snapshotWords p) (Machine.snapshotCursor p)) = 0x00000006 :: p.toList := by
  rw [encode, encodePayload, ← Vector.toList_push, snapshotWords_push_snapshotCursor]
  rfl

/-- A command's words alone are decoded as that command. -/
theorem decode_encode (i : Instr) : decode (encode i) = some (.legal i, []) := by
  simpa using decode_encode_append i []

end Sys2Proof

namespace Sys2Proof.Machine

/-- Word `k` of the state block is `W[k]` (R30). -/
theorem memReadBlock_getElem? (s : State) {k : Nat} (hk : k < 25) : (memReadBlock s)[k]? = some s.w[k] := by
  simp [memReadBlock, List.getElem?_append_left, hk]

/-- The last word of the state block is the cursor (R30). -/
theorem memReadBlock_getElem?_last (s : State) : (memReadBlock s)[25]? = some s.cur := by
  simp [memReadBlock]

/-- A Seeded block's own words and cursor, installed in any block, make it an equal block (R131, R132). -/
theorem setstate_sameBlock_of_seeded {s : State} (seeded : s.init = true) (u : State) :
    ∃ v, runCommand (.legal (.setstate s.w s.cur)) u = .next v ∧ v.out = u.out ++ [.ok []] ∧ s.sameBlock v :=
  ⟨_, exec_setstate s.w s.cur u, rfl, rfl, rfl, seeded⟩

/-! ### The characters of a word -/

@[simp] theorem renderWord_length (w : Word) : (renderWord w).length = 10 := rfl

/-- The 16 digits by their value, lower case (R133). -/
theorem hexDigits_getElem?_eq_hexDigit {n : Nat} (h : n < 16) :
    ['0', '1', '2', '3', '4', '5', '6', '7', '8', '9', 'a', 'b', 'c', 'd', 'e', 'f'][n]? = some (hexDigit n) := by
  revert n
  decide

/-- Digit `j` of a rendered word is that of the hexadecimal place `7 - j` (R133). -/
theorem renderWord_getElem?_digit (w : Word) (j : Fin 8) :
    (renderWord w)[2 + j.val]? = some (hexDigit (w.toNat / 16 ^ (7 - j.val) % 16)) := by
  have place : [7, 6, 5, 4, 3, 2, 1, 0][j.val]? = some (7 - j.val) := by
    revert j
    decide
  rw [renderWord, Nat.add_comm, List.getElem?_cons_succ, List.getElem?_cons_succ, List.getElem?_map, place,
    Option.map_some]

/-- The hexadecimal place `7 - j` of a word is the four bits from `28 - 4j` on. -/
theorem toNat_extractLsb'_digit (w : Word) {j : Nat} (hj : j < 8) :
    (w.extractLsb' (28 - 4 * j) 4).toNat = w.toNat / 16 ^ (7 - j) % 16 := by
  have shift : 2 ^ (28 - 4 * j) = 16 ^ (7 - j) := by
    rw [show 28 - 4 * j = 4 * (7 - j) by omega, pow_mul]
    rfl
  rw [BitVec.extractLsb'_toNat, Nat.shiftRight_eq_div_pow, shift]

/-- A rendered word is that of one word only (R133). -/
theorem renderWord_injective : Function.Injective renderWord := by
  intro w v same
  have parsed := congrArg parseImm32 same
  simpa only [parseImm32_renderWord, Option.some.injEq] using parsed

/-! ### The places of the words -/

/-- From place `11 k` of a line on stand the words from word `k` on: each word before has 10 characters and a space. -/
theorem renderWords_append_drop {ws : List Word} {k : Nat} (hk : k < ws.length) (rest : List Char) :
    (renderWords ws ++ rest).drop (11 * k) = renderWords (ws.drop k) ++ rest := by
  induction k generalizing ws with
  | zero => rfl
  | succ k ih =>
    match ws, hk with
    | w :: v :: vs, hk =>
      have skip : (renderWords (w :: v :: vs) ++ rest).drop 11 = renderWords (v :: vs) ++ rest := rfl
      rw [Nat.mul_succ, Nat.add_comm, ← List.drop_drop, skip, List.drop_succ_cons]
      exact ih (Nat.lt_of_succ_lt_succ hk)

/-- From place `11 + 11 k` of a dump on stand word `k`, the words after it and the last newline (R133). -/
theorem renderDump_drop (w : WordFile) (c : Word) {k : Nat} (hk : k < 25) :
    (renderDump w c).drop (11 + 11 * k) = renderWords (w[k] :: w.toList.drop (k + 1)) ++ ['\n'] := by
  have line2 : (renderDump w c).drop 11 = renderWords w.toList ++ ['\n'] := rfl
  have inFile : k < w.toList.length := by simpa using hk
  rw [← List.drop_drop, line2, renderWords_append_drop inFile, List.drop_eq_getElem_cons inFile,
    Vector.getElem_toList]

/-- The ten places of word `k` (R133). -/
theorem renderDump_drop_take (w : WordFile) (c : Word) {k : Nat} (hk : k < 25) :
    ((renderDump w c).drop (11 + 11 * k)).take 10 = renderWord w[k] := by
  rw [renderDump_drop w c hk]
  cases w.toList.drop (k + 1) <;> rfl

/-- Between two words stands a space (R133). -/
theorem renderDump_getElem?_space (w : WordFile) (c : Word) {k : Nat} (hk : k < 24) :
    (renderDump w c)[21 + 11 * k]? = some ' ' := by
  have another : k + 1 < w.toList.length := by simpa using Nat.succ_lt_succ hk
  rw [show 21 + 11 * k = 11 + 11 * k + 10 by omega, ← List.getElem?_drop, renderDump_drop w c (by omega),
    List.drop_eq_getElem_cons another]
  rfl

/-- The last word and a newline end the dump (R133). -/
theorem renderDump_drop_last (w : WordFile) (c : Word) : (renderDump w c).drop 275 = renderWord w[24] ++ ['\n'] := by
  rw [renderDump_drop w c (k := 24) (by decide), List.drop_of_length_le (by simp)]
  rfl

/-- A dump has 286 characters: the last word and the newline are the 11 after the first 275 (R133). -/
theorem renderDump_length (w : WordFile) (c : Word) : (renderDump w c).length = 286 := by
  have last := congrArg List.length (renderDump_drop_last w c)
  rw [List.length_drop, List.length_append, renderWord_length, List.length_singleton] at last
  omega

/-- The first ten places of a dump are the cursor (R133). -/
theorem renderDump_take (w : WordFile) (c : Word) : (renderDump w c).take 10 = renderWord c := rfl

/-- A dump is that of one snapshot only: its places give the cursor and each word (R133). -/
theorem renderDump_injective {w v : WordFile} {c d : Word} (same : renderDump w c = renderDump v d) :
    w = v ∧ c = d := by
  refine ⟨Vector.ext fun k hk => renderWord_injective ?_, renderWord_injective ?_⟩
  · rw [← renderDump_drop_take w c hk, ← renderDump_drop_take v d hk, same]
  · rw [← renderDump_take w c, ← renderDump_take v d, same]

end Sys2Proof.Machine

end

/-! ## The statements of the state transfer family -/

section

open Sys2Proof Sys2Proof.Machine

/-- Settles O44: the payload is the operands' encoding, which is decoded back, and SETSTATE installs its operands. -/
theorem setstateInstallsThePayload : Obligations.SetstateInstallsThePayload := by
  intro s P
  have words := encode_setstate_of_payload P
  refine ⟨.setstate (snapshotWords P) (snapshotCursor P), _, ?_, words, exec_setstate _ _ s, fun k => ?_, rfl, rfl,
    rfl, rfl⟩
  · rw [← words, decode_encode]
  · simp [snapshotWords]

/-- Settles O46: the header and the state block are the words of SETSTATE of the block's own words and cursor, which
changes `INIT` alone. -/
theorem snapshotRoundTrip : Obligations.SnapshotRoundTrip :=
  fun s => ⟨memReadBlock s, .setstate s.w s.cur, _, exec_getstate s, decode_encode (.setstate s.w s.cur),
    exec_setstate s.w s.cur _, rfl, rfl, rfl, fun ⟨_, _, hi⟩ => hi.symm, fun hi => ⟨rfl, rfl, hi.symm⟩⟩

/-- Settles O47: SETSTATE of a Seeded block's snapshot makes an equal block, and equal blocks answer equally (R27). -/
theorem installedSnapshotReplaysTheStream : Obligations.InstalledSnapshotReplaysTheStream := by
  intro s u cs seeded
  obtain ⟨u', ran, answered, same⟩ := setstate_sameBlock_of_seeded seeded u
  obtain ⟨t, v, rs, ran_s, ran_u, out_s, out_u, _, same'⟩ := equalBlocksAnswerEqually cs s u' same
  exact ⟨t, v, rs, ran_s, (runCommands_cons_of_next ran cs).trans ran_u, out_s, by simp [out_u, answered], same'⟩

/-- Settles O50: each character of a word by its place; the dump from place `11 + 11 k` on gives word `k`, the character
after it, and at word 24 the length; and a rendered word is that of one word only. -/
theorem dumpShowsTheWholeSnapshot : Obligations.DumpShowsTheWholeSnapshot := by
  refine ⟨fun w => ⟨renderWord_length w, rfl, fun j => ?digit⟩,
    fun w c => ⟨renderDump_length w c, renderDump_take w c, rfl, fun k => renderDump_drop_take w c k.isLt,
      fun k => renderDump_getElem?_space w c k.isLt, ?newline⟩, fun _ _ _ _ => renderDump_injective⟩
  case digit =>
    rw [renderWord_getElem?_digit, toNat_extractLsb'_digit w j.isLt,
      hexDigits_getElem?_eq_hexDigit (Nat.mod_lt _ (by decide))]
  case newline =>
    rw [show 285 = 275 + 10 from rfl, ← List.getElem?_drop, renderDump_drop_last]
    rfl

/-- Settles O43: the response of GETSTATE is the state block. -/
theorem getstateReturnsTheStateBlock : Obligations.GetstateReturnsTheStateBlock :=
  ⟨rfl, fun s => ⟨memReadBlock s, exec_getstate s, by simp [memReadBlock], fun k => memReadBlock_getElem? s k.isLt,
    memReadBlock_getElem?_last s⟩⟩

/-- Settles O45: SETSTATE's next state is initialized, so a draw from it with a cursor above 24 takes R143's fault. -/
theorem setstateCompletesFromEveryState : Obligations.SetstateCompletesFromEveryState :=
  fun ws c s => ⟨_, exec_setstate ws c s, rfl, rfl, rfl, rfl, rfl,
    fun above _ draws => exec_draw_of_cursor draws rfl above⟩

end

/-! ## Which fault a command raises, and what a faulting response says of it -/

section

namespace Sys2Proof.Machine

/-- A draw command with `INIT = 1` and a legal cursor answers OK with its data (R111, R143). -/
theorem exec_draw_of_legal {i : Instr} (draws : isDraw i = true) {s : State} (h : s.init = true)
    (hc : s.cur.toNat ≤ 24) :
    exec i s = .next { s with
      w := drawnFile s, cur := BitVec.ofNat 32 (drawnIndex s), out := s.out ++ [.ok (drawData i (drawnWord s))] } := by
  rw [exec_draw draws, drawRespond_of_legal _ h hc]

/-- The condition on the command and the block under which each fault is raised (R141, R142, R143). -/
def Raises (c : Command) (s : State) : Trap → Prop
  | .uninitializedGenerator => isDrawCommand c = true ∧ s.init = false
  | .illegalCommand => ∃ h, c = .illegal h
  | .cursorOutOfRange => isDrawCommand c = true ∧ s.init = true ∧ 24 < s.cur.toNat

/-- A command that raises a fault has no effect but the response (R147). -/
theorem runCommand_of_raises {c : Command} {s : State} {trap : Trap} (raised : Raises c s trap) :
    runCommand c s = .next { s with out := s.out ++ [.fault trap] } := by
  match c, trap, raised with
  | .legal _, .uninitializedGenerator, ⟨draws, uninit⟩ => exact exec_draw_of_uninit draws uninit
  | .legal _, .cursorOutOfRange, ⟨draws, hi, above⟩ => exact exec_draw_of_cursor draws hi above
  | .illegal g, .illegalCommand, _ => exact runCommand_illegal g s

/-- A command that raises no fault answers OK (R140). -/
theorem runCommand_of_not_raises {c : Command} {s : State} (noFault : ∀ trap, ¬ Raises c s trap) :
    ∃ t d, runCommand c s = .next t ∧ t.out = s.out ++ [.ok d] := by
  cases c with
  | illegal g => exact absurd ⟨g, rfl⟩ (noFault .illegalCommand)
  | legal i =>
    cases i with
    | seed x => exact ⟨_, _, exec_seed x s, rfl⟩
    | getstate => exact ⟨_, _, exec_getstate s, rfl⟩
    | setstate ws cur => exact ⟨_, _, exec_setstate ws cur s, rfl⟩
    | _ =>
      have hi : s.init = true := eq_true_of_ne_false fun uninit => noFault .uninitializedGenerator ⟨rfl, uninit⟩
      have hc : s.cur.toNat ≤ 24 := not_lt.mp fun above => noFault .cursorOutOfRange ⟨rfl, hi, above⟩
      rw [runCommand_legal, exec_draw_of_legal rfl hi hc]
      exact ⟨_, _, rfl, rfl⟩

/-- The response of a command is a fault exactly under that fault's condition (R140). -/
theorem response_eq_fault_iff {c : Command} {s t : State} {r : Response} (ran : runCommand c s = .next t)
    (out : t.out = s.out ++ [r]) (trap : Trap) : r = .fault trap ↔ Raises c s trap := by
  refine ⟨fun faulted => ?_, fun raised => ?_⟩
  · by_cases noFault : ∀ trap', ¬ Raises c s trap'
    · obtain ⟨_, d, ok, okOut⟩ := runCommand_of_not_raises noFault
      obtain rfl := next_inj (ok.symm.trans ran)
      simp [faulted, okOut] at out
    · obtain ⟨trap', raised⟩ := not_forall_not.mp noFault
      obtain rfl := next_inj ((runCommand_of_raises raised).symm.trans ran)
      obtain rfl : trap' = trap := by simpa [faulted] using out
      exact raised
  · obtain rfl := next_inj ((runCommand_of_raises raised).symm.trans ran)
    simpa using out.symm

/-- The next state of a command whose response is a fault (R147). -/
theorem eq_emit_fault_of_out {c : Command} {s t : State} {trap : Trap} (ran : runCommand c s = .next t)
    (out : t.out = s.out ++ [.fault trap]) : t = { s with out := s.out ++ [.fault trap] } :=
  next_inj (ran.symm.trans (runCommand_of_raises ((response_eq_fault_iff ran out trap).mp rfl)))

end Sys2Proof.Machine

end

/-! ## The statements of the exceptions family -/

section

open Sys2Proof Sys2Proof.Machine

/-- Settles O10: an illegal header is a command of one word, whose run is the fault (R142). -/
theorem illegalHeaderFaultsAndIsConsumed : Obligations.IllegalHeaderFaultsAndIsConsumed := by
  intro s h tail unknown
  have ran := stepRunsPresentedCommand s (.illegal h) tail (isDecoded_illegal unknown)
  exact ⟨ran.trans (runCommand_illegal h _), rfl⟩

/-- Settles O20: of the other ways a step changes the block, one leaves the cursor and the two draws start from a legal
one. -/
theorem onlySeedSetstateResetRepairCursor : Obligations.OnlySeedSetstateResetRepairCursor := by
  intro s t h illegal legal
  rcases step_block h with ⟨_, hc, _⟩ | ⟨x, rest, fetched, _, hc, _⟩ | ⟨ws, c, rest, fetched, _, hc, _⟩ |
    ⟨_, _, _, _, _, _, at24, _⟩ | ⟨_, _, _, _, _, _, below, _⟩ | ⟨rest, fetched, _, hc, _⟩
  · exact absurd (hc ▸ legal) illegal
  · exact .inl ⟨x, rest, fetched, hc⟩
  · exact .inr (.inl ⟨ws, c, rest, fetched, hc ▸ legal, hc⟩)
  · exact absurd at24.le illegal
  · exact absurd below.le illegal
  · exact .inr (.inr ⟨rest, fetched, hc⟩)

/-- Settles O22: the one response of a command is a fault exactly under that fault's condition. -/
theorem faultsRaisedExactlyWhenStated : Obligations.FaultsRaisedExactlyWhenStated := by
  intro c s
  obtain ⟨t, r, ran, _, out⟩ := runCommand_next c s
  have faulted := response_eq_fault_iff ran out
  refine ⟨t, r, ran, out, faulted .illegalCommand, faulted .uninitializedGenerator, faulted .cursorOutOfRange, ?_,
    rfl, rfl, rfl⟩
  rintro trap rfl
  exact ⟨eq_emit_fault_of_out ran out, rfl⟩

/-- Settles O23: a faulting response says which fault was raised, and with it the whole next state. -/
theorem faultingCommandChangesNoState : Obligations.FaultingCommandChangesNoState :=
  fun _ _ _ _ ran out => ⟨eq_emit_fault_of_out ran out, rfl⟩

/-- Settles O39: a fault leaves the block, so its condition still holds for the next draw; the ways into and out of a
cursor above 24 are those of O19 and O20. -/
theorem faultingDrawLeavesBlockAndFaultsAgain : Obligations.FaultingDrawLeavesBlockAndFaultsAgain := by
  refine ⟨fun i j s first second => ⟨fun uninit => ?uninit, fun hi above => ?cursor⟩,
    fun i s draws hi hc => ⟨_, _, exec_draw_of_legal draws hi hc, rfl⟩, ?leaves, ?returns⟩
  case uninit =>
    exact ⟨_, exec_draw_of_uninit first uninit, ⟨rfl, rfl, rfl⟩, rfl, rfl, exec_draw_of_uninit second uninit⟩
  case cursor =>
    exact ⟨_, exec_draw_of_cursor first hi above, ⟨rfl, rfl, rfl⟩, rfl, rfl, exec_draw_of_cursor second hi above⟩
  case leaves =>
    intro s t h legal above
    obtain ⟨ws, c, rest, fetched, hc, _⟩ := onlyBadSetstateMakesCursorIllegal s t h legal above.not_ge
    exact ⟨ws, c, rest, fetched, hc⟩
  case returns =>
    intro s t h above legal
    rcases onlySeedSetstateResetRepairCursor s t h above.not_ge legal with
      ⟨x, rest, fetched, _⟩ | ⟨ws, c, rest, fetched, hc, _⟩ | ⟨rest, fetched, _⟩
    · exact .inl ⟨x, rest, fetched⟩
    · exact .inr (.inl ⟨ws, c, rest, fetched, hc⟩)
    · exact .inr (.inr ⟨rest, fetched⟩)

end

/-! ## The reset event behind a partial command -/

section

namespace Sys2Proof.Machine

/-- Words that make no command are discarded by the reset event behind them, which is what is fetched (R170). -/
theorem fetch_reset_of_decode_none {ws : List Word} (partly : decode ws = none) (tail : List HostEvent) :
    fetch (wordEvents ws ++ .reset :: tail) = .reset tail := by
  have split : splitAtReset (wordEvents ws ++ .reset :: tail) = (ws, some tail) := by
    simp [splitAtReset_wordEvents_append, splitAtReset]
  simp [fetch, split, partly]

end Sys2Proof.Machine

end

/-! ## The statements of the reset family -/

section

open Sys2Proof Sys2Proof.Machine

/-- Settles O12: the reset event is what is fetched, and a step installs the reset state of R32 (log entry 3). -/
theorem resetEventDiscardsPartialCommand : Obligations.ResetEventDiscardsPartialCommand :=
  fun _ _ tail partly => step_of_fetch_reset (fetch_reset_of_decode_none partly tail)

/-- Settles O14: a fetched command answers a next state, and so do the reset event and, by log entry 2, waiting. -/
theorem everyStepAnswersNextState : Obligations.EveryStepAnswersNextState := by
  intro s
  rcases step_cases s with ⟨c, rest, _, ran⟩ | ⟨_, _, reset⟩ | ⟨_, waits⟩
  · obtain ⟨t, _, answered, _⟩ := runCommand_next c { s with input := rest }
    exact ⟨t, ran.trans answered⟩
  · exact ⟨_, reset⟩
  · exact ⟨_, waits⟩

end
